-- ==== Sys2Proof/Word.lean ====
section
/-!
DEFINITION. The word types of GFSQ: the 32-bit registers of the window (10_state.md R28), the 64-bit
words of an image (20_memory.md R88), and binary64 values held as their bit patterns (20_memory.md R70).
-/

namespace Sys2Proof

/-- One byte. -/
abbrev Byte := BitVec 8

/-- A 32-bit register of the window, and a command word. -/
abbrev Word := BitVec 32

/-- A 64-bit word of a register's image, and the fingerprint. -/
abbrev DWord := BitVec 64

/-- A binary64 value as its IEEE 754 bit pattern: bit 63 the sign, bits 62:52 the biased exponent,
bits 51:0 the fraction (20_memory.md R70). -/
abbrev F64 := BitVec 64

end Sys2Proof
end

