-- ==== Sys2Proof/Syntax.lean ====
section
/-!
DEFINITION. The ten commands of spec/opcode_table.json (30_encoding.md R99), one constructor per row.
-/

namespace Sys2Proof

/-- A command of GFSQ. DST and SRC are register indices, unsigned 8-bit fields of the command word
(30_encoding.md R96, R97): `0xFF` names r_m where the command accepts it. -/
inductive Instr where
  /-- NOP (44_commands.md R190) -/
  | nop
  /-- CONFIGURE (44_commands.md R191) -/
  | configure
  /-- SET (44_commands.md R192) -/
  | set
  /-- SQUARE_DUP with its doubling flag (44_commands.md R193) -/
  | squareDup (dup : Bool)
  /-- COPY (44_commands.md R194) -/
  | copy (dst src : Nat)
  /-- INIT_MULT (44_commands.md R195) -/
  | initMult (src : Nat)
  /-- MUL (44_commands.md R196) -/
  | mul
  /-- GET_INT (44_commands.md R197) -/
  | getInt
  /-- IS_ONE (44_commands.md R198) -/
  | isOne
  /-- VALIDATE (44_commands.md R199) -/
  | validate (dst : Nat)
  deriving DecidableEq, Repr

end Sys2Proof
end

