-- ==== Sys2Proof/WellFormed.lean ====
section
/-!
DEFINITION. Which commands a command word can hold: every register index fits its 8-bit field
(30_encoding.md R96, R97). Whether an index names a register is checked when the command runs
(60_exceptions.md R204), not here.
-/

namespace Sys2Proof

/-- A register index fits an 8-bit field. -/
def fitsField (j : Nat) : Bool := decide (j < 256)

/-- The command can be written as a command word. -/
def Instr.wellFormed : Instr → Bool
  | .nop => true
  | .configure => true
  | .set => true
  | .squareDup _ => true
  | .copy dst src => fitsField dst && fitsField src
  | .initMult src => fitsField src
  | .mul => true
  | .getInt => true
  | .isOne => true
  | .validate dst => fitsField dst

end Sys2Proof
end

