-- ==== Sys2Proof/Decode.lean ====
section
/-!
DEFINITION. Decoding a command word (30_encoding.md R95, R96, R99 to R102), and the encoder.
-/

namespace Sys2Proof

/-- Why a command word is illegal (30_encoding.md R100). -/
inductive DecodeReject where
  /-- OP ∈ [0x0A, 0xFF] -/
  | reservedOpcode
  /-- RSV = w[31:25] is not 0 -/
  | reservedBits
  /-- a field the command's row marks "0" is not 0 -/
  | fieldNotZero
  deriving DecidableEq, Repr

/-- OP = w[7:0]. -/
def opField (w : Word) : Nat := (w.extractLsb' 0 8).toNat

/-- DST = w[15:8]. -/
def dstField (w : Word) : Nat := (w.extractLsb' 8 8).toNat

/-- SRC = w[23:16]. -/
def srcField (w : Word) : Nat := (w.extractLsb' 16 8).toNat

/-- DUP = w[24]. -/
def dupField (w : Word) : Bool := w.getLsbD 24

/-- RSV = w[31:25]. -/
def rsvField (w : Word) : Nat := (w.extractLsb' 25 7).toNat

/-- Accepts a row's command when every field the row marks "0" is 0 (30_encoding.md R99, R100). -/
def whenZero (zero : Bool) (i : Instr) : Except DecodeReject Instr :=
  if zero then .ok i else .error .fieldNotZero

/-- Decoding of a command word, total: a command or the reason it is illegal (30_encoding.md R100). -/
def decode (w : Word) : Except DecodeReject Instr :=
  let dst0 := dstField w == 0
  let src0 := srcField w == 0
  let dup0 := !dupField w
  if 9 < opField w then .error .reservedOpcode
  else if rsvField w ≠ 0 then .error .reservedBits
  else match opField w with
    | 0 => whenZero (dst0 && src0 && dup0) .nop
    | 1 => whenZero (dst0 && src0 && dup0) .configure
    | 2 => whenZero (dst0 && src0 && dup0) .set
    | 3 => whenZero (dst0 && src0) (.squareDup (dupField w))
    | 4 => whenZero dup0 (.copy (dstField w) (srcField w))
    | 5 => whenZero (dst0 && dup0) (.initMult (srcField w))
    | 6 => whenZero (dst0 && src0 && dup0) .mul
    | 7 => whenZero (dst0 && src0 && dup0) .getInt
    | 8 => whenZero (dst0 && src0 && dup0) .isOne
    | 9 => whenZero (src0 && dup0) (.validate (dstField w))
    | _ => .error .reservedOpcode

/-- The word OP | (DST << 8) | (SRC << 16) | (DUP << 24) (30_encoding.md R99). -/
def commandWord (op dst src : Nat) (dup : Bool) : Word :=
  BitVec.ofNat 32 op ||| (BitVec.ofNat 32 dst <<< 8) ||| (BitVec.ofNat 32 src <<< 16) |||
    (BitVec.ofNat 32 dup.toNat <<< 24)

/-- The command word of a command (30_encoding.md R99, R104). -/
def encode : Instr → Word
  | .nop => commandWord 0x00 0 0 false
  | .configure => commandWord 0x01 0 0 false
  | .set => commandWord 0x02 0 0 false
  | .squareDup dup => commandWord 0x03 0 0 dup
  | .copy dst src => commandWord 0x04 dst src false
  | .initMult src => commandWord 0x05 0 src false
  | .mul => commandWord 0x06 0 0 false
  | .getInt => commandWord 0x07 0 0 false
  | .isOne => commandWord 0x08 0 0 false
  | .validate dst => commandWord 0x09 dst 0 false

/-- One row of the opcode map: a word `w` selects it when `w &&& mask = word` (30_encoding.md R99). -/
structure OpRow where
  mnemonic : String
  word : Word
  mask : Word
  deriving DecidableEq, Repr

/-- The opcode map (30_encoding.md R99). -/
def opcodeMap : List OpRow :=
  [ ⟨"NOP", 0x00000000, 0xFFFFFFFF⟩,
    ⟨"CONFIGURE", 0x00000001, 0xFFFFFFFF⟩,
    ⟨"SET", 0x00000002, 0xFFFFFFFF⟩,
    ⟨"SQUARE_DUP", 0x00000003, 0xFEFFFFFF⟩,
    ⟨"COPY", 0x00000004, 0xFF0000FF⟩,
    ⟨"INIT_MULT", 0x00000005, 0xFF00FFFF⟩,
    ⟨"MUL", 0x00000006, 0xFFFFFFFF⟩,
    ⟨"GET_INT", 0x00000007, 0xFFFFFFFF⟩,
    ⟨"IS_ONE", 0x00000008, 0xFFFFFFFF⟩,
    ⟨"VALIDATE", 0x00000009, 0xFFFF00FF⟩ ]

/-- The row's mnemonic of a command. -/
def mnemonicOf : Instr → String
  | .nop => "NOP"
  | .configure => "CONFIGURE"
  | .set => "SET"
  | .squareDup _ => "SQUARE_DUP"
  | .copy _ _ => "COPY"
  | .initMult _ => "INIT_MULT"
  | .mul => "MUL"
  | .getInt => "GET_INT"
  | .isOne => "IS_ONE"
  | .validate _ => "VALIDATE"

/-- Word `w` selects the row `r` (30_encoding.md R99). -/
def OpRow.selects (r : OpRow) (w : Word) : Bool := w &&& r.mask == r.word

/-- The instruction the decoder reads from the instruction whose bits are `w`, of which the table
gives `nbits`: one 32-bit command word (30_encoding.md R95). -/
def decodeTableWord (nbits w : Nat) : Option Instr :=
  match decode (BitVec.ofNat 32 (w % 2 ^ nbits)) with
  | .ok i => some i
  | .error _ => none

end Sys2Proof
end

