-- ==== Sys2Proof/Config.lean ====
section
/-!
DEFINITION. The open parameters of the spec (00_scope.md R16, 93_implementation_defined.md) as
constants without a body: nothing can evaluate them, so a statement that holds of the model holds
whatever they are. A range the spec gives a parameter is part of its type, or of the definition that
reads it.
-/

namespace Sys2Proof

/-- The SIMD widths an instance may have (00_scope.md R8). -/
inductive LaneWidth where
  | two
  | four
  | eight
  deriving DecidableEq, Repr, Inhabited

/-- W as a number of binary64 lanes. -/
def LaneWidth.lanes : LaneWidth → Nat
  | .two => 2
  | .four => 4
  | .eight => 8

theorem LaneWidth.lanes_pos (W : LaneWidth) : 0 < W.lanes := by cases W <;> decide

/-- Which binary64 operation order the instance's datapath has (41_butterflies.md R146). -/
inductive FpSchedule where
  /-- the reference order of 40_lane_vector.md to 43_residue.md -/
  | reference
  /-- another order that computes the same exact map; its rounded values are draws -/
  | other
  deriving DecidableEq, Repr, Inhabited

/-- How the instance evaluates the carry input and a decoded sample (42_passes.md R162,
43_residue.md R177). -/
inductive XEval where
  /-- the reference: exactly, with the true √b -/
  | exact
  /-- another evaluation, which under EXACT rounds to the integer the exact one rounds to -/
  | other
  deriving DecidableEq, Repr, Inhabited

/-- How the instance evaluates the rest of a split (42_passes.md R167). -/
inductive SplitEval where
  /-- the reference: z − h·√b exactly, rounded once -/
  | exact
  /-- (z − h·sb_hi) − h·sb_lo in binary64 -/
  | basePair
  deriving DecidableEq, Repr, Inhabited

/-- The largest pattern of a binary64 value in [+0, 0.5], plus one: the patterns below it are exactly
the values ERR may have (42_passes.md R176). -/
abbrev errPatterns : Nat := 0x3FE0000000000001

/-- W (00_scope.md R8). -/
opaque Config.laneWidth : LaneWidth

/-- T_MAX − 1, with T_MAX ∈ [1, 64] (00_scope.md R11). -/
opaque Config.tMaxPred : Fin 64

/-- NREGS_MAX ∈ [0, 30] (00_scope.md R13). -/
opaque Config.nregsMax : Fin 31

/-- ARENA_BYTES (00_scope.md R14). -/
opaque Config.arenaBytes : Nat

/-- B_MAX(LOG2N) / 2 − 1, with B_MAX even in [2, 2^32 − 2] (92_eei_decisions.md D12). -/
opaque Config.bMaxHalfPred : Nat → Fin 2147483647

/-- GFSQ_BASE / 256 (20_memory.md R67). -/
opaque Config.basePage : Nat

/-- FP_SCHEDULE (41_butterflies.md R146). -/
opaque Config.fpSchedule : FpSchedule

/-- X_EVAL for the carry input and the decode (42_passes.md R162). -/
opaque Config.xEval : XEval

/-- X_EVAL for the split (42_passes.md R167). -/
opaque Config.splitEval : SplitEval

/-- The arena's base address divided by 2 MiB (20_memory.md R86). -/
opaque Config.arenaPage : Nat

/-- The carry input an instance evaluates in its own way, for base `b`, the two parts of a sample and
the scale 2^(−`s`): the dyadic rational with this mantissa and exponent (42_passes.md R162). The law it
obeys under EXACT is in `heldInput` of Machine/Passes.lean. -/
opaque Config.carryInput : (b : Nat) → (s : Nat) → F64 → F64 → Int × Int

/-- SWAP_PERM within one vector of eight lanes (40_lane_vector.md R122). -/
opaque Config.swapOne : Equiv.Perm (Fin 8)

/-- SWAP_PERM across two vectors of eight lanes (40_lane_vector.md R122). -/
opaque Config.swapTwo : Equiv.Perm (Fin 16)

/-- Sign and payload of the NaN an operation on these operands gives (40_lane_vector.md R107). -/
opaque Config.nanBits : F64 → F64 → Bool × Fin 4503599627370495

/-- The integer a carry input or a decoded digit rounds to when the sample is not finite: the spec
gives it no value (43_residue.md R182, 42_passes.md R175). -/
opaque Config.nonFiniteRound : F64 → F64 → Int

/-- EXACT of the command that completes as draw `k` (44_commands.md R189). -/
opaque Config.exact : Nat → Bool

/-- The residue a command leaves when EXACT fails, before it is reduced modulo n (44_commands.md R189). -/
opaque Config.anyResidue : Nat → Nat

/-- ERRV, by PE: the pattern of what PE `t` leaves in its error accumulator under another schedule, a
binary64 value in [+0, 0.5]. ERR is the largest over the PEs (42_passes.md R175, R176; 10_state.md R62). -/
opaque Config.errv : (k t : Nat) → Fin errPatterns

/-- RAWIMG: word `w` of the image that draw `k` writes (10_state.md R54), where the words are not
those of the reference datapath; and the words of its gaps always (20_memory.md R88). -/
opaque Config.rawImg : (k w : Nat) → DWord

/-- What PE `t` leaves in carry slot F[t][l] under another schedule than the reference (10_state.md R61). -/
opaque Config.carrySlot : (k t l : Nat) → Int

/-- Word `w` of the scratch image X after the command that completes as draw `k` (10_state.md R65:
"unspecified"). -/
opaque Config.scratchWord : (k w : Nat) → DWord

/-- The value modulo n that an instance of another schedule decodes from the sample words of an
image (`full`: the image of r_m), for base `b` and LOG2N = `l` (43_residue.md R177, R178). -/
opaque Config.otherDecode : (full : Bool) → (b l : Nat) → List DWord → Int

/-- How many steps the command accepted as draw `k` runs before its completion (44_commands.md R188). -/
opaque Config.duration : Nat → Nat

/-- What byte `a` of the arena reads as when nothing has written it since draw `k`
(70_reset_and_hazards.md R221: "unspecified"). -/
opaque Config.unwrittenByte : (k a : Nat) → Byte

/-- T_MAX ∈ [1, 64] (00_scope.md R11). -/
def Config.tMax : Nat := Config.tMaxPred.val + 1

/-- B_MAX(L), even and in [2, 2^32 − 2] (00_scope.md R12). -/
def Config.bMax (l : Nat) : Nat := 2 * ((Config.bMaxHalfPred l).val + 1)

/-- GFSQ_BASE, aligned to 256 bytes (20_memory.md R67). -/
def Config.base : Nat := 256 * Config.basePage

/-- The arena's base, an internal physical address aligned to 2 MiB (20_memory.md R80, R86). -/
def Config.arenaBase : Nat := 2 ^ 21 * Config.arenaPage

/-- The sizes CONFIGURE tests its operands against, in one value, so that its tests can be stated for
any instance of the block. -/
structure Sizes where
  /-- B_MAX(LOG2N) -/
  bMax : Nat → Nat
  tMax : Nat
  nregsMax : Nat
  arenaBytes : Nat

/-- The sizes of this block. -/
def Config.sizes : Sizes where
  bMax := Config.bMax
  tMax := Config.tMax
  nregsMax := Config.nregsMax.val
  arenaBytes := Config.arenaBytes

/-- The open parameters one completing command reads, in one value, so that a meaning can be stated
and tested for any of them. -/
structure Draws where
  /-- EXACT of this command -/
  exact : Bool
  /-- the residue it leaves when EXACT fails -/
  residue : Nat
  /-- ERRV, by PE -/
  errv : Nat → Fin errPatterns
  /-- RAWIMG, by word -/
  image : Nat → DWord
  /-- carry slots under another schedule -/
  carrySlot : Nat → Nat → Int
  /-- the scratch image, by word -/
  scratch : Nat → DWord
  /-- W -/
  lanes : LaneWidth
  /-- FP_SCHEDULE -/
  schedule : FpSchedule
  /-- X_EVAL of the carry input and of the decode -/
  xEval : XEval
  /-- X_EVAL of the split -/
  splitEval : SplitEval

/-- The open parameters of the command that completes as draw `k`. -/
def Config.draws (k : Nat) : Draws where
  exact := Config.exact k
  residue := Config.anyResidue k
  errv := Config.errv k
  image := Config.rawImg k
  carrySlot := Config.carrySlot k
  scratch := Config.scratchWord k
  lanes := Config.laneWidth
  schedule := Config.fpSchedule
  xEval := Config.xEval
  splitEval := Config.splitEval

end Sys2Proof
end

