-- ==== Sys2Proof/Machine/Binary64.lean ====
section
/-!
DEFINITION. IEEE 754 binary64 as the datapath uses it (00_scope.md R19, 40_lane_vector.md R106, R107,
R109, R110): every operation is the exact one followed by RN64, round to nearest with ties to even,
with subnormals and without flags. The format and the rounding mode are the spec's own quotation of
IEEE 754 (log 28).
-/

namespace Sys2Proof.Machine

/-- The pattern without its sign bit, as a number: it orders the magnitudes. -/
def f64Mag (x : F64) : Nat := x.toNat % 2 ^ 63

/-- The magnitude pattern of infinity. -/
def infMag : Nat := 0x7FF0000000000000

/-- A NaN: all exponent bits set and a fraction that is not 0. -/
def f64IsNaN (x : F64) : Bool := decide (infMag < f64Mag x)

/-- +∞ or −∞. -/
def f64IsInf (x : F64) : Bool := f64Mag x == infMag

/-- Neither infinite nor a NaN. -/
def f64IsFinite (x : F64) : Bool := decide (f64Mag x < infMag)

/-- +0 or −0. -/
def f64IsZero (x : F64) : Bool := f64Mag x == 0

/-- A sign and a magnitude pattern put together. -/
def f64Pack (neg : Bool) (mag : Nat) : F64 := BitVec.ofNat 64 (mag + if neg then 2 ^ 63 else 0)

/-- The pattern with its sign bit cleared: `abs` (40_lane_vector.md R108). -/
def f64Abs (x : F64) : F64 := f64Pack false (f64Mag x)

/-- The mantissa of a finite value: it is ± mantissa · 2^exponent. -/
def f64Man (x : F64) : Nat :=
  let ex : Nat := f64Mag x / 2 ^ 52
  let fr : Nat := f64Mag x % 2 ^ 52
  if ex = 0 then fr else fr + 2 ^ 52

/-- The exponent of a finite value: it is ± mantissa · 2^exponent. -/
def f64Exp (x : F64) : Int :=
  let ex : Nat := f64Mag x / 2 ^ 52
  if ex = 0 then -1074 else (ex : Int) - 1075

/-- The signed mantissa of a finite value. -/
def f64SMan (x : F64) : Int := if x.msb then -(f64Man x : Int) else f64Man x

/-- `m / 2^k` to the nearest integer, ties to even. -/
def shiftRN (m k : Nat) : Nat :=
  let q := m / 2 ^ k
  let r := m % 2 ^ k
  if 2 ^ k < 2 * r ∨ (2 ^ k = 2 * r ∧ q % 2 = 1) then q + 1 else q

/-- RN64 of ± m · 2^e (00_scope.md R19): the nearest binary64, ties to even, subnormals included, and
infinity from the overflow threshold on. -/
def f64Round (neg : Bool) (m : Nat) (e : Int) : F64 :=
  if m = 0 then f64Pack neg 0
  else
    let e' : Int := max (e + (Nat.log2 m : Int) - 52) (-1074)
    let q := if e' ≤ e then m * 2 ^ (e - e').toNat else shiftRN m (e' - e).toNat
    f64Pack neg (min ((e' + 1074).toNat * 2 ^ 52 + q) infMag)

/-- RN64 of n · 2^e for a signed n; 0 gives +0. -/
def f64RoundInt (n : Int) (e : Int) : F64 := f64Round (decide (n < 0)) n.natAbs e

/-- RN64 of an integer. DESIGN CHOICE (log 37): that of 0 is +0, where the spec gives that zero no sign. -/
def f64OfInt (n : Int) : F64 := f64RoundInt n 0

/-- A NaN with the sign and payload the operands' draw gives (40_lane_vector.md R107). -/
def f64NaN (x y : F64) : F64 :=
  f64Pack (Config.nanBits x y).1 (infMag + 1 + (Config.nanBits x y).2.val)

/-- Exact negation: the sign bit is inverted (40_lane_vector.md R118, R121); the sign and payload of a NaN
it gives are a draw, as of every operation (R107, log 16). -/
def f64Neg (x : F64) : F64 := if f64IsNaN x then f64NaN x x else x ^^^ BitVec.ofNat 64 (2 ^ 63)

/-- The sum, rounded once (40_lane_vector.md R106). -/
def f64Add (x y : F64) : F64 :=
  if f64IsNaN x || f64IsNaN y then f64NaN x y
  else if f64IsInf x then (if f64IsInf y && x.msb != y.msb then f64NaN x y else x)
  else if f64IsInf y then y
  else
    let e := min (f64Exp x) (f64Exp y)
    let n := f64SMan x * 2 ^ (f64Exp x - e).toNat + f64SMan y * 2 ^ (f64Exp y - e).toNat
    if n = 0 then f64Pack (x.msb && y.msb) 0 else f64RoundInt n e

/-- The difference, rounded once (40_lane_vector.md R106). -/
def f64Sub (x y : F64) : F64 := f64Add x (f64Neg y)

/-- The product, rounded once (40_lane_vector.md R106). -/
def f64Mul (x y : F64) : F64 :=
  let neg := x.msb != y.msb
  if f64IsNaN x || f64IsNaN y then f64NaN x y
  else if f64IsInf x || f64IsInf y then
    (if f64IsZero x || f64IsZero y then f64NaN x y else f64Pack neg infMag)
  else f64Round neg (f64Man x * f64Man y) (f64Exp x + f64Exp y)

/-- The order of the finite and infinite values as integers; both zeros are 0. -/
def f64Key (x : F64) : Int := if x.msb then -(f64Mag x : Int) else f64Mag x

/-- The ordered comparison x < y: false when an operand is a NaN (60_exceptions.md R210). -/
def f64Lt (x y : F64) : Bool := !f64IsNaN x && !f64IsNaN y && decide (f64Key x < f64Key y)

/-- The ordered comparison x ≤ y: false when an operand is a NaN. -/
def f64Le (x y : F64) : Bool := !f64IsNaN x && !f64IsNaN y && decide (f64Key x ≤ f64Key y)

/-- `max(a, b) = (a > b) ? a : b`, not symmetric on zeros and NaNs (40_lane_vector.md R109). -/
def f64Max (a b : F64) : F64 := if f64Lt b a then a else b

/-- The binary64 integer nearest to x, halves away from zero, exact, the sign of a zero kept
(40_lane_vector.md R110). -/
def f64RoundHalfAway (x : F64) : F64 :=
  if f64IsNaN x then f64NaN x x
  else if f64IsInf x || decide (0 ≤ f64Exp x) then x
  else
    let k := (-f64Exp x).toNat
    f64Round x.msb ((f64Man x + 2 ^ (k - 1)) / 2 ^ k) 0

/-- The integer a finite integral value stands for. -/
def f64ToInt (x : F64) : Int :=
  if 0 ≤ f64Exp x then f64SMan x * 2 ^ (f64Exp x).toNat
  else f64SMan x / 2 ^ (-f64Exp x).toNat

/-- 0.5 (60_exceptions.md R211). -/
def f64Half : F64 := 0x3FE0000000000000

/-- 2.0. -/
def f64Two : F64 := 0x4000000000000000

end Sys2Proof.Machine
end

