-- ==== Sys2Proof/Machine/Lane.lean ====
section
/-!
DEFINITION. The datapath primitives of 40_lane_vector.md: the arithmetic a rule is written in, the
complex lane, the W-lane vectors Vd and Vcx, and the eight-point tile Vcx8. A primitive on vectors is
its one-lane form in every lane. The arithmetic is an argument, so that the same formula can be read
in binary64 and in exact arithmetic (00_scope.md R19).
-/

namespace Sys2Proof.Machine

/-- The real operations a datapath formula uses. -/
structure Arith (α : Type) where
  zero : α
  add : α → α → α
  sub : α → α → α
  mul : α → α → α
  neg : α → α

/-- Binary64: every operation rounded once (40_lane_vector.md R106). -/
def f64Arith : Arith F64 where
  zero := 0
  add := f64Add
  sub := f64Sub
  mul := f64Mul
  neg := f64Neg

/-- Exact arithmetic, in any commutative ring: what a rule means by "in exact arithmetic"
(00_scope.md R19). -/
def exactArith (K : Type) [CommRing K] : Arith K where
  zero := 0
  add x y := x + y
  sub x y := x - y
  mul x y := x * y
  neg x := -x

/-- One complex lane, re + i·im (40_lane_vector.md R112). -/
structure Cx (α : Type) where
  re : α
  im : α
  deriving DecidableEq, Repr

/-- A stored twiddle (c, t) = (cos α, tan α) (41_butterflies.md R134). -/
structure Tw (α : Type) where
  c : α
  t : α
  deriving DecidableEq, Repr

variable {α : Type}

/-- 0 as a complex lane. -/
def cxZero (A : Arith α) : Cx α := ⟨A.zero, A.zero⟩

/-- z + r (40_lane_vector.md R112). -/
def cxAdd (A : Arith α) (z r : Cx α) : Cx α := ⟨A.add z.re r.re, A.add z.im r.im⟩

/-- z − r (40_lane_vector.md R112). -/
def cxSub (A : Arith α) (z r : Cx α) : Cx α := ⟨A.sub z.re r.re, A.sub z.im r.im⟩

/-- s × z for a real s (40_lane_vector.md R112). -/
def cxScale (A : Arith α) (s : α) (z : Cx α) : Cx α := ⟨A.mul s z.re, A.mul s z.im⟩

/-- The complex product (40_lane_vector.md R112). -/
def cxMul (A : Arith α) (z r : Cx α) : Cx α :=
  ⟨A.sub (A.mul z.re r.re) (A.mul z.im r.im), A.add (A.mul z.re r.im) (A.mul z.im r.re)⟩

/-- The conjugate (00_scope.md R20). -/
def cxConj (A : Arith α) (z : Cx α) : Cx α := ⟨z.re, A.neg z.im⟩

/-- `mulW`: z times the twiddle (c, t), in the order of 40_lane_vector.md R113. -/
def mulW (A : Arith α) (z : Cx α) (w : Tw α) : Cx α :=
  ⟨A.mul w.c (A.sub z.re (A.mul w.t z.im)), A.mul w.c (A.add z.im (A.mul w.t z.re))⟩

/-- `mulWconj`: z times the conjugate of the twiddle (40_lane_vector.md R114). -/
def mulWconj (A : Arith α) (z : Cx α) (w : Tw α) : Cx α :=
  ⟨A.mul w.c (A.add z.re (A.mul w.t z.im)), A.mul w.c (A.sub z.im (A.mul w.t z.re))⟩

/-- `addi`: z + i·r (40_lane_vector.md R115). -/
def addi (A : Arith α) (z r : Cx α) : Cx α := ⟨A.sub z.re r.im, A.add z.im r.re⟩

/-- `subi`: z − i·r (40_lane_vector.md R116). -/
def subi (A : Arith α) (z r : Cx α) : Cx α := ⟨A.add z.re r.im, A.sub z.im r.re⟩

/-- `sub_i`: −i·(z − r) (40_lane_vector.md R117). -/
def sub_i (A : Arith α) (z r : Cx α) : Cx α := ⟨A.sub z.im r.im, A.sub r.re z.re⟩

/-- `muli`: i·z, exact (40_lane_vector.md R118). -/
def muli (A : Arith α) (z : Cx α) : Cx α := ⟨A.neg z.im, z.re⟩

/-- `mulmi`: −i·z, exact (40_lane_vector.md R118). -/
def mulmi (A : Arith α) (z : Cx α) : Cx α := ⟨z.im, A.neg z.re⟩

/-- `mul1i`: z·(1 + i) (40_lane_vector.md R119). -/
def mul1i (A : Arith α) (z : Cx α) : Cx α := ⟨A.sub z.re z.im, A.add z.re z.im⟩

/-- `mul1mi`: z·(1 − i) (40_lane_vector.md R119). -/
def mul1mi (A : Arith α) (z : Cx α) : Cx α := ⟨A.add z.re z.im, A.sub z.im z.re⟩

/-- `sqr`: z² in the order of 40_lane_vector.md R120. -/
def cxSqr (A : Arith α) (z : Cx α) : Cx α :=
  ⟨A.sub (A.mul z.re z.re) (A.mul z.im z.im), A.mul (A.add z.re z.re) z.im⟩

/-! ### Vd and Vcx -/

/-- `Vd`: W real lanes (40_lane_vector.md R108). -/
abbrev Vd (α : Type) (w : Nat) := Vector α w

/-- `Vcx`: a Vd of real parts and a Vd of imaginary parts (40_lane_vector.md R112). -/
structure Vcx (α : Type) (w : Nat) where
  re : Vd α w
  im : Vd α w
  deriving DecidableEq, Repr

variable {w : Nat}

/-- The lanes of `Vd` under a two-operand operation. -/
def vdMap2 (f : α → α → α) (a b : Vd α w) : Vd α w := Vector.ofFn fun i => f a[i] b[i]

/-- a + b (40_lane_vector.md R108). -/
def vdAdd (A : Arith α) (a b : Vd α w) : Vd α w := vdMap2 A.add a b

/-- a − b (40_lane_vector.md R108). -/
def vdSub (A : Arith α) (a b : Vd α w) : Vd α w := vdMap2 A.sub a b

/-- a × b (40_lane_vector.md R108). -/
def vdMul (A : Arith α) (a b : Vd α w) : Vd α w := vdMap2 A.mul a b

/-- `broadcast(s)` (40_lane_vector.md R108). -/
def vdBroadcast (w : Nat) (s : α) : Vd α w := Vector.replicate w s

/-- scalar × (40_lane_vector.md R108). -/
def vdScale (A : Arith α) (s : α) (a : Vd α w) : Vd α w := a.map (A.mul s)

/-- a[i] ← s (40_lane_vector.md R108). -/
def vdSet (a : Vd α w) (i : Fin w) (s : α) : Vd α w := a.set i s

/-- lane-wise max (40_lane_vector.md R109). -/
def vdMax (a b : Vd F64 w) : Vd F64 w := vdMap2 f64Max a b

/-- lane-wise abs (40_lane_vector.md R108). -/
def vdAbs (a : Vd F64 w) : Vd F64 w := a.map f64Abs

/-- lane-wise round (40_lane_vector.md R110). -/
def vdRound (a : Vd F64 w) : Vd F64 w := a.map f64RoundHalfAway

/-- `isZero`: every lane is 0 of either sign (40_lane_vector.md R108). -/
def vdIsZero (a : Vd F64 w) : Bool := a.toList.all f64IsZero

/-- `load(A, x)` at the position x = W·i, the only positions a load has: the W values from there on
(40_lane_vector.md R111, 20_memory.md R86). -/
def vdLoad (w : Nat) (view : Nat → α) (i : Nat) : Vd α w := Vector.ofFn fun k => view (w * i + k.val)

/-- `store(A, x, a)` at the position x = W·i: the view with the W values there replaced
(40_lane_vector.md R111, 20_memory.md R86). -/
def vdStore (view : Nat → α) (i : Nat) (a : Vd α w) : Nat → α := fun p =>
  if h : w * i ≤ p ∧ p - w * i < w then a[p - w * i]'h.2 else view p

/-- `shift`: the lanes moved up by one, the last lane of the previous vector entering lane 0, negated
when `rotate` (40_lane_vector.md R121). -/
def vdShift (A : Arith α) (x rhs : Vd α w) (rotate : Bool) : Vd α w := Vector.ofFn fun i =>
  if i.val = 0 then
    let last := rhs[w - 1]'(by have := i.isLt; omega)
    if rotate then A.neg last else last
  else x[i.val - 1]'(by have := i.isLt; omega)

/-- Lane i of a Vcx (40_lane_vector.md R112). -/
def vcxLane (z : Vcx α w) (i : Fin w) : Cx α := ⟨z.re[i], z.im[i]⟩

/-- The Vcx with the given lanes. -/
def vcxOfLanes (f : Fin w → Cx α) : Vcx α w := ⟨Vector.ofFn fun i => (f i).re, Vector.ofFn fun i => (f i).im⟩

/-- A one-lane operation in every lane (40_lane_vector.md R112). -/
def vcxMap (f : Cx α → Cx α) (z : Vcx α w) : Vcx α w := vcxOfLanes fun i => f (vcxLane z i)

/-- A two-operand one-lane operation in every lane (40_lane_vector.md R112). -/
def vcxMap2 (f : Cx α → Cx α → Cx α) (z r : Vcx α w) : Vcx α w :=
  vcxOfLanes fun i => f (vcxLane z i) (vcxLane r i)

/-- `shift` on both parts of a Vcx (40_lane_vector.md R121). -/
def vcxShift (A : Arith α) (x rhs : Vcx α w) (rotate : Bool) : Vcx α w :=
  ⟨vdShift A x.re rhs.re rotate, vdShift A x.im rhs.im rotate⟩

/-- `swap` on one vector of eight lanes: the open permutation SWAP_PERM (40_lane_vector.md R122). -/
def vdSwapOne (a : Vd α 8) : Vd α 8 := Vector.ofFn fun i => a[Config.swapOne i]

/-- `swap` across two vectors of eight lanes (40_lane_vector.md R122). -/
def vdSwapTwo (a b : Vd α 8) : Vd α 8 × Vd α 8 :=
  let both := a ++ b
  (Vector.ofFn fun i => both[Config.swapTwo (i.castLE (by decide))],
    Vector.ofFn fun i => both[Config.swapTwo (i.natAdd 8)])

/-- `swap` on one Vcx of eight lanes: both parts of a lane move together (40_lane_vector.md R122). -/
def vcxSwapOne (z : Vcx α 8) : Vcx α 8 := ⟨vdSwapOne z.re, vdSwapOne z.im⟩

/-- `swap` across two Vcx of eight lanes (40_lane_vector.md R122). -/
def vcxSwapTwo (z r : Vcx α 8) : Vcx α 8 × Vcx α 8 :=
  let re := vdSwapTwo z.re r.re
  let im := vdSwapTwo z.im r.im
  (⟨re.1, im.1⟩, ⟨re.2, im.2⟩)

/-! ### The eight-point tile -/

/-- A tile of 8 vectors of W complex lanes, T[q][i] (40_lane_vector.md R123). -/
abbrev Vcx8 (α : Type) (w : Nat) := Vector (Vcx α w) 8

/-- `transpose_in`: W rows of 8, row i element q being T[q][i] (40_lane_vector.md R124). -/
def transposeIn (tile : Vcx8 α w) : Vector (Vector (Cx α) 8) w :=
  Vector.ofFn fun i => Vector.ofFn fun q => vcxLane tile[q] i

/-- `transpose_out`, the inverse (40_lane_vector.md R124). -/
def transposeOut (rows : Vector (Vector (Cx α) 8) w) : Vcx8 α w :=
  Vector.ofFn fun q => vcxOfLanes fun i => rows[i][q]

/-- The position of the sample in lane i, digit index q of the tile of column group lh and row group
l0, for blocks of n_io samples (40_lane_vector.md R125). -/
def tilePosition (nio lh l0 i q : Nat) : Nat := (l0 + i) * nio + 8 * lh + q

/-- The tile of column group lh and row group l0 (40_lane_vector.md R125). -/
def tileLoad (w : Nat) (sample : Nat → Cx α) (nio lh l0 : Nat) : Vcx8 α w :=
  Vector.ofFn fun q => vcxOfLanes fun i => sample (tilePosition nio lh l0 i.val q.val)

/-- The samples after the tile of column group lh and row group l0 is written back: its positions get
the tile's values and no other position changes (20_memory.md R92, 40_lane_vector.md R125). -/
def tileStore (tile : Vcx8 α w) (sample : Nat → Cx α) (nio lh l0 : Nat) : Nat → Cx α := fun p =>
  if h : p % nio / 8 = lh ∧ l0 ≤ p / nio ∧ p / nio - l0 < w then
    vcxLane (tile[p % 8]'(Nat.mod_lt p (by decide))) ⟨p / nio - l0, h.2.2⟩
  else sample p

end Sys2Proof.Machine
end

