-- ==== Sys2Proof/Machine/Butterfly.lean ====
section
/-!
DEFINITION. The radix-4 and radix-8 butterflies (41_butterflies.md R137 to R144) and the pointwise
stage (R149, R150), on one lane, in the operation order of the spec.
-/

namespace Sys2Proof.Machine

variable {α : Type}

/-- The four samples of a radix-4 butterfly. -/
structure X4 (α : Type) where
  x0 : Cx α
  x1 : Cx α
  x2 : Cx α
  x3 : Cx α
  deriving DecidableEq, Repr

/-- Sample r of four. -/
def x4Get (x : X4 α) (r : Nat) : Cx α :=
  match r with
  | 0 => x.x0
  | 1 => x.x1
  | 2 => x.x2
  | _ => x.x3

/-- `forward4e`: an even node (41_butterflies.md R137). -/
def forward4e (A : Arith α) (w w1 : Tw α) (x : X4 α) : X4 α :=
  let u2 := mulW A x.x2 w
  let u3 := mulW A x.x3 w
  let a := cxAdd A x.x0 u2
  let b := cxSub A x.x0 u2
  let a' := cxAdd A x.x1 u3
  let b' := cxSub A x.x1 u3
  let v := mulW A a' w1
  let v' := mulW A b' w1
  ⟨cxAdd A a v, cxSub A a v, addi A b v', subi A b v'⟩

/-- `forward4o`: an odd node (41_butterflies.md R138). -/
def forward4o (A : Arith α) (w w2 : Tw α) (x : X4 α) : X4 α :=
  let u2 := mulW A x.x2 w
  let u3 := mulW A x.x3 w
  let a := addi A x.x0 u2
  let b := subi A x.x0 u2
  let a' := addi A x.x1 u3
  let b' := subi A x.x1 u3
  let v := mulW A a' w2
  let v' := mulW A b' w2
  ⟨cxAdd A a v, cxSub A a v, addi A b v', subi A b v'⟩

/-- `forward4_0`: the top node, with √½ folded in (41_butterflies.md R139). -/
def forward4_0 (A : Arith α) (sqrth : α) (x : X4 α) : X4 α :=
  let a := addi A x.x0 x.x2
  let b := subi A x.x0 x.x2
  let a' := addi A x.x1 x.x3
  let b' := subi A x.x1 x.x3
  let v := cxScale A sqrth (mul1i A a')
  let v' := cxScale A sqrth (mul1i A b')
  ⟨cxAdd A a v, cxSub A a v, addi A b v', subi A b v'⟩

/-- `backward4e` (41_butterflies.md R140). -/
def backward4e (A : Arith α) (w w1 : Tw α) (y : X4 α) : X4 α :=
  let a := cxAdd A y.x0 y.x1
  let a' := mulWconj A (cxSub A y.x0 y.x1) w1
  let b := cxAdd A y.x2 y.x3
  let b' := mulmi A (mulWconj A (cxSub A y.x2 y.x3) w1)
  ⟨cxAdd A a b, cxAdd A a' b', mulWconj A (cxSub A a b) w, mulWconj A (cxSub A a' b') w⟩

/-- `backward4o` (41_butterflies.md R141). -/
def backward4o (A : Arith α) (w w2 : Tw α) (y : X4 α) : X4 α :=
  let a := cxAdd A y.x0 y.x1
  let a' := mulWconj A (cxSub A y.x0 y.x1) w2
  let b := cxAdd A y.x2 y.x3
  let b' := mulmi A (mulWconj A (cxSub A y.x2 y.x3) w2)
  ⟨cxAdd A a b, cxAdd A a' b', mulmi A (mulWconj A (cxSub A a b) w),
    mulmi A (mulWconj A (cxSub A a' b') w)⟩

/-- `backward4_0` (41_butterflies.md R142). -/
def backward4_0 (A : Arith α) (sqrth : α) (y : X4 α) : X4 α :=
  let a := cxAdd A y.x0 y.x1
  let a' := cxScale A sqrth (mul1mi A (cxSub A y.x0 y.x1))
  let b := cxAdd A y.x2 y.x3
  let b' := mulmi A (cxScale A sqrth (mul1mi A (cxSub A y.x2 y.x3)))
  ⟨cxAdd A a b, cxAdd A a' b', mulmi A (cxSub A a b), mulmi A (cxSub A a' b')⟩

/-- The eight samples of a radix-8 butterfly. -/
structure X8 (α : Type) where
  x0 : Cx α
  x1 : Cx α
  x2 : Cx α
  x3 : Cx α
  x4 : Cx α
  x5 : Cx α
  x6 : Cx α
  x7 : Cx α
  deriving DecidableEq, Repr

/-- Sample r of eight. -/
def x8Get (x : X8 α) (r : Nat) : Cx α :=
  match r with
  | 0 => x.x0
  | 1 => x.x1
  | 2 => x.x2
  | 3 => x.x3
  | 4 => x.x4
  | 5 => x.x5
  | 6 => x.x6
  | _ => x.x7

/-- `forward8_0`: levels 0, 1 and 2 (41_butterflies.md R143). -/
def forward8_0 (A : Arith α) (sqrth : α) (w20 w22 : Tw α) (x : X8 α) : X8 α :=
  let a0 := addi A x.x0 x.x4
  let a4 := subi A x.x0 x.x4
  let a1 := addi A x.x1 x.x5
  let a5 := subi A x.x1 x.x5
  let a2 := addi A x.x2 x.x6
  let a6 := subi A x.x2 x.x6
  let a3 := addi A x.x3 x.x7
  let a7 := subi A x.x3 x.x7
  let s2 := cxScale A sqrth (mul1i A a2)
  let s3 := cxScale A sqrth (mul1i A a3)
  let s6 := cxScale A sqrth (mul1i A a6)
  let s7 := cxScale A sqrth (mul1i A a7)
  let b0 := cxAdd A a0 s2
  let b2 := cxSub A a0 s2
  let b1 := cxAdd A a1 s3
  let b3 := cxSub A a1 s3
  let b4 := addi A a4 s6
  let b6 := subi A a4 s6
  let b5 := addi A a5 s7
  let b7 := subi A a5 s7
  let t1 := mulW A b1 w20
  let t3 := mulW A b3 w20
  let t5 := mulW A b5 w22
  let t7 := mulW A b7 w22
  ⟨cxAdd A b0 t1, cxSub A b0 t1, addi A b2 t3, subi A b2 t3,
    cxAdd A b4 t5, cxSub A b4 t5, addi A b6 t7, subi A b6 t7⟩

/-- `backward8_0`: inverse levels 2, 1 and 0 (41_butterflies.md R144). -/
def backward8_0 (A : Arith α) (sqrth : α) (w20 w22 : Tw α) (y : X8 α) : X8 α :=
  let b0 := cxAdd A y.x0 y.x1
  let b1 := mulWconj A (cxSub A y.x0 y.x1) w20
  let b2 := cxAdd A y.x2 y.x3
  let b3 := mulmi A (mulWconj A (cxSub A y.x2 y.x3) w20)
  let b4 := cxAdd A y.x4 y.x5
  let b5 := mulWconj A (cxSub A y.x4 y.x5) w22
  let b6 := cxAdd A y.x6 y.x7
  let b7 := mulmi A (mulWconj A (cxSub A y.x6 y.x7) w22)
  let a0 := cxAdd A b0 b2
  let a2 := cxScale A sqrth (mul1mi A (cxSub A b0 b2))
  let a1 := cxAdd A b1 b3
  let a3 := cxScale A sqrth (mul1mi A (cxSub A b1 b3))
  let a4 := cxAdd A b4 b6
  let a6 := mulmi A (cxScale A sqrth (mul1mi A (cxSub A b4 b6)))
  let a5 := cxAdd A b5 b7
  let a7 := mulmi A (cxScale A sqrth (mul1mi A (cxSub A b5 b7)))
  ⟨cxAdd A a0 a4, cxAdd A a1 a5, cxAdd A a2 a6, cxAdd A a3 a7,
    mulmi A (cxSub A a0 a4), mulmi A (cxSub A a1 a5), mulmi A (cxSub A a2 a6),
    mulmi A (cxSub A a3 a7)⟩

/-- The spectrum of the real parts at an index, from the values at it and at its conjugate index
(41_butterflies.md R149). -/
def realSpectrum (A : Arith α) (half : α) (u uc : Cx α) : Cx α := cxScale A half (cxAdd A u (cxConj A uc))

/-- The spectrum of the imaginary parts (41_butterflies.md R149). -/
def imagSpectrum (A : Arith α) (half : α) (u uc : Cx α) : Cx α :=
  mulmi A (cxScale A half (cxSub A u (cxConj A uc)))

/-- The pointwise squaring at one index: `u`, its conjugate index's value `uc`, and the root
(41_butterflies.md R149). -/
def pointwiseSquare (A : Arith α) (half two : α) (rho u uc : Cx α) : Cx α :=
  let r := realSpectrum A half u uc
  let h := imagSpectrum A half u uc
  cxAdd A (cxAdd A (cxSqr A r) (cxMul A rho (cxSqr A h))) (muli A (cxScale A two (cxMul A r h)))

/-- The pointwise multiplication at one index (41_butterflies.md R150). -/
def pointwiseMul (A : Arith α) (half : α) (rho u uc v vc : Cx α) : Cx α :=
  let r := realSpectrum A half u uc
  let h := imagSpectrum A half u uc
  let s := realSpectrum A half v vc
  let k := imagSpectrum A half v vc
  cxAdd A (cxAdd A (cxMul A r s) (cxMul A rho (cxMul A h k)))
    (muli A (cxAdd A (cxMul A r k) (cxMul A h s)))

end Sys2Proof.Machine
end

