-- ==== Sys2Proof/Machine/Trig.lean ====
section
/-!
DEFINITION. The cosine, sine and tangent of the exact angles π·m/2^k, rounded once to binary64
(41_butterflies.md R134, R136, R148). They are computed to 240 fractional bits and rounded from
there (log 18).
-/

namespace Sys2Proof.Machine

/-- Fractional bits of the fixed-point values below. -/
def trigBits : Nat := 240

/-- 1 in fixed point. -/
def trigOne : Int := 2 ^ trigBits

/-- floor(π·2^240). -/
def piFix : Nat := 0x3243F6A8885A308D313198A2E03707344A4093822299F31D0082EFA98EC4E

/-- The alternating series 1 − x²/(p(p+1)) + x⁴/(p(p+1)(p+2)(p+3)) − … in fixed point. -/
def altSeries (x2 : Int) : (fuel p : Nat) → Int
  | 0, _ => trigOne
  | fuel + 1, p => trigOne - x2 * altSeries x2 fuel (p + 2) / (trigOne * (p * (p + 1) : Nat))

/-- The terms of a series that are summed: past them a term of an angle below π/2 is below 2^(−240). -/
def trigTerms : Nat := 34

/-- π·m/2^k in fixed point. -/
def angleFix (m k : Nat) : Int := ((piFix * m / 2 ^ k : Nat) : Int)

/-- cos x in fixed point, for 0 ≤ x < π/2. -/
def cosFix (x : Int) : Int := altSeries (x * x / trigOne) trigTerms 1

/-- sin x in fixed point, for 0 ≤ x < π/2. -/
def sinFix (x : Int) : Int := x * altSeries (x * x / trigOne) trigTerms 2 / trigOne

/-- RN64 of a positive fixed-point value that stands for an irrational number just above it. -/
def f64OfFix (v : Int) : F64 := f64Round false (2 * v.toNat + 1) (-(trigBits : Int) - 1)

/-- RN64(cos(π·m/2^k)), for 0 < m/2^k < 1/2. -/
def f64Cos (m k : Nat) : F64 := f64OfFix (cosFix (angleFix m k))

/-- RN64(sin(π·m/2^k)), for 0 < m/2^k < 1/2. -/
def f64Sin (m k : Nat) : F64 := f64OfFix (sinFix (angleFix m k))

/-- RN64(tan(π·m/2^k)), for 0 < m/2^k < 1/2. -/
def f64Tan (m k : Nat) : F64 :=
  let x := angleFix m k
  f64OfFix (sinFix x * trigOne / cosFix x)

end Sys2Proof.Machine
end

