-- ==== Sys2Proof/Machine/Transform.lean ====
section
/-!
DEFINITION. Sizes (00_scope.md R10, R17), positions (20_memory.md R82, R83), the transform tree and its
twiddles (41_butterflies.md R126 to R136), which butterfly runs where (R145), and the pointwise stage
over a whole spectrum (R147 to R151).
-/

namespace Sys2Proof.Machine

/-! ### Sizes and positions -/

/-- N = 2^L (00_scope.md R9). -/
def nLen (l : Nat) : Nat := 2 ^ l

/-- log2 of n_io: the largest of 64, 256, 1024, 4096 not above N/16 (00_scope.md R10). -/
def nioLog (l : Nat) : Nat := if l ≤ 11 then 6 else if l ≤ 13 then 8 else if l ≤ 15 then 10 else 12

/-- n_io (00_scope.md R10). -/
def nio (l : Nat) : Nat := 2 ^ nioLog l

/-- L_S = L − log2 n_io (00_scope.md R17). -/
def lS (l : Nat) : Nat := l - nioLog l

/-- S = N/n_io, the number of outer blocks (00_scope.md R17). -/
def rowsOf (l : Nat) : Nat := nLen l / nio l

/-- G8 = n_io/8, the number of column groups (00_scope.md R17). -/
def g8 (l : Nat) : Nat := nio l / 8

/-- n = b^N + 1 (00_scope.md R17). -/
def modulus (b l : Nat) : Nat := b ^ nLen l + 1

/-- index(k), the padded position of sample k (20_memory.md R82). -/
def padIndex (l k : Nat) : Nat := k + 4 * (k / nio l)

/-- RAW_WORDS of a configuration: 2·index(N) (10_state.md R50, 20_memory.md R82). -/
def rawWordsOf (l : Nat) : Nat := 2 * padIndex l (nLen l)

/-- ARENA_REQ in bytes (20_memory.md R85). -/
def arenaReq (l t r : Nat) : Nat :=
  16 * ((r + 3) * padIndex l (nLen l) + nLen l / 4 + t * rowsOf l) + 448

/-! ### The tree's roots -/

/-- brv_s(j): the s-bit reversal of j (00_scope.md R20). -/
def brv : (s j : Nat) → Nat
  | 0, _ => 0
  | s + 1, j => j % 2 * 2 ^ s + brv s (j / 2)

/-- The angle of δ_{s,j} is π times this over 2^(s+1) (41_butterflies.md R126). -/
def deltaTurns (s j : Nat) : Nat := 2 * brv s j + 1

/-- The stored twiddle of δ_{s,j}, for s ≥ 1 and even j (41_butterflies.md R134). -/
def f64Delta (s j : Nat) : Tw F64 := ⟨f64Cos (deltaTurns s j) (s + 1), f64Tan (deltaTurns s j) (s + 1)⟩

/-- RN64(√½) (41_butterflies.md R136). -/
def f64SqrtHalf : F64 := 0x3FE6A09E667F3BCD

/-- The pointwise root ρ_j = e(π·(2·brv_L(j) + 1)/N), its parts rounded once (41_butterflies.md R148):
the angle is taken to the first quadrant and the parts are placed by its quadrant. -/
def f64Rho (l j : Nat) : Cx F64 :=
  let m := deltaTurns l j
  let quarter := 2 ^ (l - 1)
  let c := f64Cos (m % quarter) l
  let s := f64Sin (m % quarter) l
  match m / quarter with
  | 0 => ⟨c, s⟩
  | 1 => ⟨f64Neg s, c⟩
  | 2 => ⟨f64Neg c, f64Neg s⟩
  | _ => ⟨s, f64Neg c⟩

/-- One entry of the table w122i: (w, w^½_even, w^½_odd) (41_butterflies.md R135). -/
structure TwTriple (α : Type) where
  w : Tw α
  wEven : Tw α
  wOdd : Tw α
  deriving DecidableEq, Repr

/-- The entry of the radix-4 node (s, j), j even (41_butterflies.md R135). -/
def w122i {α : Type} (tw : Nat → Nat → Tw α) (s j : Nat) : TwTriple α :=
  ⟨tw s j, tw (s + 1) (2 * j), tw (s + 1) (2 * j + 2)⟩

/-- The entry of the table ws for the even node j of level L − 2 (41_butterflies.md R135). -/
def wsEntry {α : Type} (tw : Nat → Nat → Tw α) (l j : Nat) : Tw α × Tw α :=
  (tw (l - 2) j, tw (l - 1) (2 * j))

/-- The constants a transform uses: √½ and the stored twiddles δ_{s,j} of even nodes. -/
structure Roots (α : Type) where
  sqrth : α
  tw : Nat → Nat → Tw α

/-- The constants of the binary64 datapath (41_butterflies.md R134, R136). -/
def f64Roots : Roots F64 := ⟨f64SqrtHalf, f64Delta⟩

/-! ### One stage over a whole vector -/

variable {α : Type}

/-- A vector of n values, from the value at each position. -/
def tabulate {β : Type} (n : Nat) (g : Nat → β) : Array β := ((List.range n).map g).toArray

/-- Sample k of a vector. -/
def sampleAt (A : Arith α) (u : Array (Cx α)) (k : Nat) : Cx α := u.getD k (cxZero A)

/-- The value a radix-4 stage on levels (s, s + 1) leaves at position p: node j takes its even or its
odd butterfly by its parity (41_butterflies.md R145). -/
def stage4At (even odd : TwTriple α → X4 α → X4 α) (tri : Nat → TwTriple α) (n s : Nat)
    (x : Nat → Cx α) (p : Nat) : Cx α :=
  let q := n / 2 ^ s / 4
  let j := p / (4 * q)
  let i := j * (4 * q) + p % q
  let four : X4 α := ⟨x i, x (i + q), x (i + 2 * q), x (i + 3 * q)⟩
  let r := p / q % 4
  if j % 2 = 0 then x4Get (even (tri j) four) r else x4Get (odd (tri (j - 1)) four) r

/-- The value the top radix-4 stage leaves at position p (41_butterflies.md R139). -/
def top4At (f : X4 α → X4 α) (n : Nat) (x : Nat → Cx α) (p : Nat) : Cx α :=
  let q := n / 4
  let i := p % q
  x4Get (f ⟨x i, x (i + q), x (i + 2 * q), x (i + 3 * q)⟩) (p / q)

/-- The value the top radix-8 stage leaves at position p (41_butterflies.md R143). -/
def top8At (f : X8 α → X8 α) (n : Nat) (x : Nat → Cx α) (p : Nat) : Cx α :=
  let q := n / 8
  let i := p % q
  x8Get (f ⟨x i, x (i + q), x (i + 2 * q), x (i + 3 * q), x (i + 4 * q), x (i + 5 * q),
    x (i + 6 * q), x (i + 7 * q)⟩) (p / q)

/-- Forward radix-4 stage on levels (s, s + 1). -/
def forwardStage (A : Arith α) (k : Roots α) (n : Nat) (u : Array (Cx α)) (s : Nat) : Array (Cx α) :=
  tabulate n (stage4At (fun t => forward4e A t.w t.wEven) (fun t => forward4o A t.w t.wOdd)
    (w122i k.tw s) n s (sampleAt A u))

/-- Inverse radix-4 stage on levels (s + 1, s). -/
def backwardStage (A : Arith α) (k : Roots α) (n : Nat) (u : Array (Cx α)) (s : Nat) : Array (Cx α) :=
  tabulate n (stage4At (fun t => backward4e A t.w t.wEven) (fun t => backward4o A t.w t.wOdd)
    (w122i k.tw s) n s (sampleAt A u))

/-- The top stage of the forward outer transform: radix-4 when L_S is even, radix-8 when odd. -/
def forwardTop (A : Arith α) (k : Roots α) (n ls : Nat) (u : Array (Cx α)) : Array (Cx α) :=
  if ls % 2 = 0 then tabulate n (top4At (forward4_0 A k.sqrth) n (sampleAt A u))
  else tabulate n (top8At (forward8_0 A k.sqrth (k.tw 2 0) (k.tw 2 2)) n (sampleAt A u))

/-- The top stage of the inverse outer transform. -/
def backwardTop (A : Arith α) (k : Roots α) (n ls : Nat) (u : Array (Cx α)) : Array (Cx α) :=
  if ls % 2 = 0 then tabulate n (top4At (backward4_0 A k.sqrth) n (sampleAt A u))
  else tabulate n (top8At (backward8_0 A k.sqrth (k.tw 2 0) (k.tw 2 2)) n (sampleAt A u))

/-- The first levels s of the outer radix-4 stages (41_butterflies.md R145). -/
def outerLevels (ls : Nat) : List Nat :=
  let s0 := if ls % 2 = 0 then 2 else 3
  (List.range ((ls - s0) / 2)).map fun i => s0 + 2 * i

/-- The first levels s of the inner radix-4 stages; the last pair is fused with the pointwise stage
(41_butterflies.md R145, R151). -/
def innerLevels (l ls : Nat) : List Nat := (List.range ((l - ls) / 2)).map fun i => ls + 2 * i

/-- Forward outer transform, levels 0 … L_S − 1 (41_butterflies.md R131, R145). -/
def forwardOuter (A : Arith α) (k : Roots α) (l ls : Nat) (u : Array (Cx α)) : Array (Cx α) :=
  (outerLevels ls).foldl (forwardStage A k (nLen l)) (forwardTop A k (nLen l) ls u)

/-- Inverse outer transform, levels L_S − 1 … 0 (41_butterflies.md R131, R145). -/
def inverseOuter (A : Arith α) (k : Roots α) (l ls : Nat) (u : Array (Cx α)) : Array (Cx α) :=
  backwardTop A k (nLen l) ls ((outerLevels ls).reverse.foldl (backwardStage A k (nLen l)) u)

/-- Forward inner transform, levels L_S … L − 1 (41_butterflies.md R131, R145). -/
def forwardInner (A : Arith α) (k : Roots α) (l ls : Nat) (u : Array (Cx α)) : Array (Cx α) :=
  (innerLevels l ls).foldl (forwardStage A k (nLen l)) u

/-- Inverse inner transform, levels L − 1 … L_S (41_butterflies.md R131, R145). -/
def inverseInner (A : Arith α) (k : Roots α) (l ls : Nat) (u : Array (Cx α)) : Array (Cx α) :=
  (innerLevels l ls).reverse.foldl (backwardStage A k (nLen l)) u

/-! ### One level, as the tree states it -/

/-- δ_{s,j} as a complex value: (c, c·t) for even j, and i times the even neighbour's for odd j
(41_butterflies.md R127). -/
def deltaOf (A : Arith α) (k : Roots α) (s j : Nat) : Cx α :=
  let w := k.tw s (j - j % 2)
  let d : Cx α := ⟨w.c, A.mul w.c w.t⟩
  if j % 2 = 0 then d else muli A d

/-- The value forward level s leaves at position p, with δ_j the root of node j (41_butterflies.md R127). -/
def forwardLevelAt (A : Arith α) (delta : Nat → Cx α) (n s : Nat) (x : Nat → Cx α) (p : Nat) : Cx α :=
  let h := n / 2 ^ s / 2
  let j := p / (2 * h)
  let i := j * (2 * h) + p % h
  let v := cxMul A (delta j) (x (i + h))
  if p / h % 2 = 0 then cxAdd A (x i) v else cxSub A (x i) v

/-- The value inverse level s leaves at position p (41_butterflies.md R128). -/
def inverseLevelAt (A : Arith α) (delta : Nat → Cx α) (n s : Nat) (x : Nat → Cx α) (p : Nat) : Cx α :=
  let h := n / 2 ^ s / 2
  let j := p / (2 * h)
  let i := j * (2 * h) + p % h
  if p / h % 2 = 0 then cxAdd A (x i) (x (i + h))
  else cxMul A (cxConj A (delta j)) (cxSub A (x i) (x (i + h)))

/-! ### The pointwise stage over a whole spectrum -/

/-- The pointwise squaring of every index; index j's conjugate index is N − 1 − j (41_butterflies.md
R130, R149). Every value is computed from the forward spectrum (42_passes.md R156). -/
def squareSpectrum (A : Arith α) (half two : α) (rho : Nat → Cx α) (n : Nat) (u : Array (Cx α)) :
    Array (Cx α) :=
  tabulate n fun j => pointwiseSquare A half two (rho j) (sampleAt A u j) (sampleAt A u (n - 1 - j))

/-- The pointwise multiplication of every index by the stored spectrum of r_m (41_butterflies.md R150). -/
def mulSpectrum (A : Arith α) (half : α) (rho : Nat → Cx α) (n : Nat) (u v : Array (Cx α)) :
    Array (Cx α) :=
  tabulate n fun j => pointwiseMul A half (rho j) (sampleAt A u j) (sampleAt A u (n - 1 - j))
    (sampleAt A v j) (sampleAt A v (n - 1 - j))

/-- `square4e` and `square4o` as one routine (41_butterflies.md R151): the final forward radix-4 of an
even node and of its conjugate odd node of level L − 2, the eight pointwise squarings, and the first
backward radix-4 of both. Index r of one node is conjugate to index 3 − r of the other. -/
def fusedSquare (A : Arith α) (half two : α) (even odd : TwTriple α) (rhoE rhoO : Nat → Cx α)
    (x y : X4 α) : X4 α × X4 α :=
  let u := forward4e A even.w even.wEven x
  let v := forward4o A odd.w odd.wOdd y
  let ye (r : Nat) := pointwiseSquare A half two (rhoE r) (x4Get u r) (x4Get v (3 - r))
  let yo (r : Nat) := pointwiseSquare A half two (rhoO r) (x4Get v r) (x4Get u (3 - r))
  (backward4e A even.w even.wEven ⟨ye 0, ye 1, ye 2, ye 3⟩,
    backward4o A odd.w odd.wOdd ⟨yo 0, yo 1, yo 2, yo 3⟩)

end Sys2Proof.Machine
end

