-- ==== Sys2Proof/Machine/Carry.lean ====
section
/-!
DEFINITION. The integer arithmetic of the passes (42_passes.md R160 to R171), of SET's expansion
(44_commands.md R192) and of the residue extraction (43_residue.md R180 to R184): exact integers only.
-/

namespace Sys2Proof.Machine

/-- round(a/b) for b > 0, halves away from zero (00_scope.md R19). -/
def roundDiv (a : Int) (b : Nat) : Int :=
  if a < 0 then -((2 * a.natAbs + b) / (2 * b) : Nat) else ((2 * a.natAbs + b) / (2 * b) : Nat)

/-- V before its reduction: Σ d_k·b^k (00_scope.md R21). -/
def digitSum (b : Nat) : List Int → Int
  | [] => 0
  | d :: ds => d + b * digitSum b ds

/-- `v mod n` in {0, …, n − 1} (00_scope.md R21). -/
def residueOf (n : Nat) (v : Int) : Nat := (v % (n : Int)).toNat

/-! ### Ownership -/

/-- first(t) = floor(t·G8/T): the first column group of PE t (42_passes.md R160). -/
def firstGroup (l t pe : Nat) : Nat := pe * g8 l / t

/-- The first row pair of PE t: floor(t·(S/2)/T) (42_passes.md R155). -/
def firstPair (l t pe : Nat) : Nat := pe * (rowsOf l / 2) / t

/-- The row pair {row, S − 1 − row} that row `row` lies in (42_passes.md R155). -/
def rowPair (l row : Nat) : Nat := min row (rowsOf l - 1 - row)

/-- PE t owns row `row` in pass 1: the row's pair is one of its pairs (42_passes.md R155). -/
def ownsRow (l t pe row : Nat) : Bool :=
  decide (firstPair l t pe ≤ rowPair l row) && decide (rowPair l row < firstPair l t (pe + 1))

/-- The PE that owns column group lh in pass 2: the last one whose first group is not above it
(42_passes.md R160). -/
def groupOwner (l t lh : Nat) : Nat := ((List.range t).filter fun pe => firstGroup l t pe ≤ lh).length - 1

/-- PE t's predecessor on the carry ring, (t − 1) mod T (10_state.md R26). -/
def ringPred (t pe : Nat) : Nat := (pe + t - 1) % t

/-! ### Tiles of digits -/

/-- Digits as lanes: the stored form (z, 0) (42_passes.md R165). -/
def digitSample (z : Nat → Int) (k : Nat) : Cx Int := ⟨z k, 0⟩

/-- The row group a row lies in: the rows of one tile begin at a multiple of W (40_lane_vector.md R125). -/
def rowGroup (W : LaneWidth) (row : Nat) : Nat := row / W.lanes * W.lanes

/-- The lane that holds a row (40_lane_vector.md R125). -/
def laneOf (W : LaneWidth) (row : Nat) : Fin W.lanes := ⟨row % W.lanes, Nat.mod_lt row W.lanes_pos⟩

/-- The 8 digits of row `row` in column group lh: the tile is copied in and brought into row orientation
(42_passes.md R166, 20_memory.md R92). -/
def tileDigits (W : LaneWidth) (z : Nat → Int) (nio lh row : Nat) : List Int :=
  ((transposeIn (tileLoad W.lanes (digitSample z) nio lh (rowGroup W row)))[laneOf W row]).toList.map Cx.re

/-! ### Pass 2: the carry -/

/-- `carry_step` from the rounded carry input on: the digit written and the carry passed on
(42_passes.md R163). -/
def carryStep (b : Nat) (g : Nat) (o f : Int) : Int × Int :=
  let ob := roundDiv o b
  let f1 := f + (o - ob * b) * g
  let fb := roundDiv f1 b
  (f1 - fb * b, fb + ob * g)

/-- The carry loop along one row of one PE: the digits written and the last carry (42_passes.md R161). -/
def carryRun (b g : Nat) : Int → List Int → List Int × Int
  | f, [] => ([], f)
  | f, o :: os =>
    let (z, f') := carryStep b g o f
    let (zs, last) := carryRun b g f' os
    (z :: zs, last)

/-- The rounded carry inputs of row `row` in the column groups of PE `pe`, in order, tile by tile
(42_passes.md R161, R166). -/
def peRowInputs (W : LaneWidth) (l t pe row : Nat) (o : Nat → Int) : List Int :=
  (List.range (firstGroup l t (pe + 1) - firstGroup l t pe)).flatMap
    fun i => tileDigits W o (nio l) (firstGroup l t pe + i) row

/-- Pass 2's carry of every PE and row: the digits and F[t][l] (42_passes.md R161). -/
def carryTable (W : LaneWidth) (b g l t : Nat) (o : Nat → Int) : Array (Array (Array Int × Int)) :=
  tabulate t fun pe => tabulate (rowsOf l) fun row =>
    let r := carryRun b g 0 (peRowInputs W l t pe row o)
    (r.1.toArray, r.2)

/-- Row `row` of PE `pe` in a carry table. -/
def carryEntry (tbl : Array (Array (Array Int × Int))) (pe row : Nat) : Array Int × Int :=
  (tbl.getD pe #[]).getD row (#[], 0)

/-- The digit pass 2 writes at position k (42_passes.md R161). -/
def carryDigit (l t : Nat) (tbl : Array (Array (Array Int × Int))) (k : Nat) : Int :=
  let c := k % nio l
  let pe := groupOwner l t (c / 8)
  (carryEntry tbl pe (k / nio l)).1.getD (c - 8 * firstGroup l t pe) 0

/-- The carry slots pass 2 leaves, F[t][l] (10_state.md R61). -/
def carrySlots (l t : Nat) (tbl : Array (Array (Array Int × Int))) : List (List Int) :=
  (List.range t).map fun pe => (List.range (rowsOf l)).map fun row => (carryEntry tbl pe row).2

/-! ### Pass 2_1: the stitch -/

/-- Slot F[t][l]. -/
def slotAt (f : List (List Int)) (pe row : Nat) : Int := (f.getD pe []).getD row 0

/-- The carry PE `pe` takes in for row `row`: its predecessor's slot of the same row, and for PE 0 the
last PE's slot of the row before, negated into row 0 because b^N ≡ −1 (42_passes.md R169). -/
def carryIn (l t : Nat) (f : List (List Int)) (pe row : Nat) : Int :=
  if pe = 0 then
    (if row = 0 then -(slotAt f (ringPred t 0) (rowsOf l - 1)) else slotAt f (ringPred t 0) (row - 1))
  else slotAt f (ringPred t pe) row

/-- The stitch along the digits of one row of a tile, until the carry is 0 or the tile ends: the
digits and the carry left over (42_passes.md R170). -/
def stitchRun (b : Nat) : Int → List Int → List Int × Int
  | f, [] => ([], f)
  | f, z :: zs =>
    if f = 0 then (z :: zs, 0)
    else
      let y := z + f
      let fb := roundDiv y b
      let (ds, last) := stitchRun b fb zs
      ((y - fb * b) :: ds, last)

/-- `f·b` added to the last digit of a tile's row (42_passes.md R171). -/
def addLeftover (b : Nat) (f : Int) : List Int → List Int
  | [] => []
  | [z] => [z + f * b]
  | z :: zs => z :: addLeftover b f zs

/-- One row of one PE's first tile after pass 2_1 (42_passes.md R170, R171). -/
def stitchRow (b : Nat) (f : Int) (zs : List Int) : List Int :=
  let (ds, last) := stitchRun b f zs
  if last = 0 then ds else addLeftover b last ds

/-- Pass 2_1 on the tile of row group l0 in PE `pe`'s first column group: copied in, transposed, each
lane's row stitched with its own carry, and transposed back (42_passes.md R170, 20_memory.md R92). -/
def stitchTile (W : LaneWidth) (b l t : Nat) (z : Nat → Int) (f : List (List Int)) (pe l0 : Nat) :
    Vcx8 Int W.lanes :=
  let rows := transposeIn (tileLoad W.lanes (digitSample z) (nio l) (firstGroup l t pe) l0)
  transposeOut (Vector.ofFn fun i =>
    let ds := stitchRow b (carryIn l t f pe (l0 + i.val)) (rows[i].toList.map Cx.re)
    Vector.ofFn fun q => ⟨ds.getD q.val 0, 0⟩)

/-- The tiles of pass 2_1, by PE and row group (42_passes.md R170). -/
def stitchTable (W : LaneWidth) (b l t : Nat) (z : Nat → Int) (f : List (List Int)) :
    Array (Array (Vcx8 Int W.lanes)) :=
  tabulate t fun pe => tabulate (rowsOf l / W.lanes) fun i => stitchTile W b l t z f pe (i * W.lanes)

/-- Position k lies in the first column group of its PE, the one pass 2 leaves in the time domain
(42_passes.md R161, R165). -/
def inFirstGroup (l t k : Nat) : Bool :=
  let lh := k % nio l / 8
  lh == firstGroup l t (groupOwner l t lh)

/-- The digit at position k after pass 2_1, from the tile its owner wrote back (42_passes.md R170,
20_memory.md R92). -/
def stitchDigit (W : LaneWidth) (l t : Nat) (tbl : Array (Array (Vcx8 Int W.lanes))) (z : Nat → Int)
    (k : Nat) : Int :=
  let pe := groupOwner l t (k % nio l / 8)
  match (tbl.getD pe #[])[k / nio l / W.lanes]? with
  | some tile =>
    (tileStore tile (digitSample z) (nio l) (firstGroup l t pe) (rowGroup W (k / nio l)) k).re
  | none => z k

/-- The digits after pass 2_1 and before their split, from the rounded carry inputs: pass 2's carry and
then the stitch (42_passes.md R173). -/
def stitchedDigits (W : LaneWidth) (b g l t : Nat) (o : Nat → Int) (k : Nat) : Int :=
  let tbl := carryTable W b g l t o
  let z := carryDigit l t tbl
  stitchDigit W l t (stitchTable W b l t z (carrySlots l t tbl)) z k

/-! ### SET's expansion -/

/-- ceil(y/b − 1/2) (44_commands.md R192). -/
def balancedQuot (y : Int) (b : Nat) : Int := -(((b : Int) - 2 * y) / (2 * (b : Int)))

/-- The balanced expansion of y in n digits, each in (−b/2, b/2] (44_commands.md R192). -/
def balancedDigits (b : Nat) : (n : Nat) → Int → List Int
  | 0, _ => []
  | n + 1, y =>
    let q := balancedQuot y b
    (y - q * b) :: balancedDigits b n q

/-! ### Canonical digits -/

/-- One propagation of a carry through the digits: canonical digits and the carry out of the last
(43_residue.md R180). -/
def propagate (b : Nat) : Int → List Int → List Int × Int
  | f, [] => ([], f)
  | f, z :: zs =>
    let y := z + f
    let (ds, last) := propagate b (y / b) zs
    ((y % b) :: ds, last)

/-- The result of `unbalance`: N canonical digits, or the special form of the residue −1. -/
structure Canon where
  digits : List Int
  m1 : Bool
  deriving DecidableEq, Repr

/-- The special form: z_0 = −1 and every other digit 0 (43_residue.md R180). -/
def specialForm (n : Nat) : Canon := ⟨(List.range n).map fun k => if k = 0 then -1 else 0, true⟩

/-- The attempts of `unbalance`, of which `fuel` are left, entered with carry f (43_residue.md R180). -/
def unbalanceFrom (b : Nat) : (fuel : Nat) → Int → List Int → Canon
  | 0, _, zs => specialForm zs.length
  | fuel + 1, f, zs =>
    let (ds, last) := propagate b f zs
    if last = 0 then ⟨ds, false⟩ else unbalanceFrom b fuel (-last) ds

/-- `unbalance`: one propagation and at most two re-propagations (43_residue.md R180). -/
def unbalance (b : Nat) (zs : List Int) : Canon := unbalanceFrom b 3 0 zs

/-- The canonical form of the residue v by its value: its base-b expansion in N digits, or the special
form when v = n − 1 (43_residue.md R181). -/
def canonOf (b n v : Nat) : Canon :=
  if v = b ^ n then specialForm n
  else ⟨(List.range n).map fun k => ((v / b ^ k % b : Nat) : Int), false⟩

/-- A digit as the digit buffer holds it: −1 as 0xFFFFFFFF (44_commands.md R197). -/
def digitWord (z : Int) : Word := BitVec.ofInt 32 z

/-- FP of a canonical digit vector: the low byte of each of its last 8 digits, digit N − 8 in the most
significant byte (43_residue.md R183). -/
def fingerprint (zs : List Int) : DWord :=
  let n := zs.length
  BitVec.ofNat 64 (((List.range 8).map fun i => (zs.getD (n - 8 + i) 0 % 256).toNat * 2 ^ (8 * (7 - i))).sum)

/-- The residue is one: m1 = 0, z_0 = 1 and every other digit 0 (43_residue.md R184). -/
def canonIsOne (c : Canon) : Bool :=
  !c.m1 && (match c.digits with
    | [] => false
    | z :: zs => z == 1 && zs.all (· == 0))

end Sys2Proof.Machine
end

