-- ==== Sys2Proof/Machine/Surd.lean ====
section
/-!
DEFINITION. Exact arithmetic on the reals (a + c·√b)·2^e, which the carry input, the split and the
decode need with the true √b (42_passes.md R162, R167; 43_residue.md R177): floor, comparison, round
half away from zero, and RN64.
-/

namespace Sys2Proof.Machine

/-- The bits of the square root of `n` from bit `k − 1` down, added to `acc`. -/
def isqrtBits (n : Nat) : Nat → Nat → Nat
  | 0, acc => acc
  | k + 1, acc =>
    let t := acc + 2 ^ k
    isqrtBits n k (if t * t ≤ n then t else acc)

/-- floor(√n). -/
def isqrt (n : Nat) : Nat := isqrtBits n (Nat.log2 n / 2 + 1) 0

/-- ceil(√n). -/
def isqrtUp (n : Nat) : Nat :=
  let r := isqrt n
  if r * r = n then r else r + 1

/-- The real (a + c·√b)·2^e for a base b. -/
structure Surd where
  a : Int
  c : Int
  e : Int
  deriving DecidableEq, Repr

/-- floor(c·√b). -/
def floorMulSqrt (b : Nat) (c : Int) : Int :=
  if 0 ≤ c then (isqrt (c.natAbs * c.natAbs * b) : Int) else -(isqrtUp (c.natAbs * c.natAbs * b) : Int)

/-- floor(x·2^k). -/
def surdFloor (b : Nat) (x : Surd) (k : Int) : Int :=
  let s := x.e + k
  if 0 ≤ s then x.a * 2 ^ s.toNat + floorMulSqrt b (x.c * 2 ^ s.toNat)
  else (x.a + floorMulSqrt b x.c) / 2 ^ (-s).toNat

/-- −x. -/
def surdNeg (x : Surd) : Surd := ⟨-x.a, -x.c, x.e⟩

/-- x + y. -/
def surdAdd (x y : Surd) : Surd :=
  let e := min x.e y.e
  ⟨x.a * 2 ^ (x.e - e).toNat + y.a * 2 ^ (y.e - e).toNat,
    x.c * 2 ^ (x.e - e).toNat + y.c * 2 ^ (y.e - e).toNat, e⟩

/-- x − y. -/
def surdSub (x y : Surd) : Surd := surdAdd x (surdNeg y)

/-- An integer. -/
def surdOfInt (n : Int) : Surd := ⟨n, 0, 0⟩

/-- A finite binary64 value. -/
def surdOfF64 (x : F64) : Surd := ⟨f64SMan x, 0, f64Exp x⟩

/-- x < 0. -/
def surdIsNeg (b : Nat) (x : Surd) : Bool := decide (surdFloor b x 0 < 0)

/-- |x|. -/
def surdAbs (b : Nat) (x : Surd) : Surd := if surdIsNeg b x then surdNeg x else x

/-- The larger of two reals. -/
def surdMax (b : Nat) (x y : Surd) : Surd := if surdIsNeg b (surdSub x y) then y else x

/-- round(x): the nearest integer, halves away from zero (00_scope.md R19). -/
def surdRound (b : Nat) (x : Surd) : Int :=
  let half : Surd := ⟨1, 0, -1⟩
  if surdIsNeg b x then -(surdFloor b (surdAdd (surdNeg x) half) 0)
  else surdFloor b (surdAdd x half) 0

/-- How far below the smallest binary64 the bits of a real are looked at before it is rounded. -/
def rn64Depth : Nat := 1140

/-- RN64(x) (00_scope.md R19): the bits down to 2^(−1140) and whether anything is left below them
decide the rounding, since every rounding boundary of binary64 is a multiple of 2^(−1075). DESIGN CHOICE
(log 37): RN64(0) is +0, where the spec gives that zero no sign. -/
def f64OfSurd (b : Nat) (x : Surd) : F64 :=
  let y := surdAbs b x
  let lo := surdFloor b y rn64Depth
  let hi := -(surdFloor b (surdNeg y) rn64Depth)
  let sticky := if lo = hi then 0 else 1
  f64Round (surdIsNeg b x) (2 * lo.toNat + sticky) (-(rn64Depth : Int) - 1)

/-- The sample (re, im) as the real (re + √b·im)·2^(−s), for finite parts. -/
def surdOfSample (re im : F64) (s : Nat) : Surd :=
  let e := min (f64Exp re) (f64Exp im)
  ⟨f64SMan re * 2 ^ (f64Exp re - e).toNat, f64SMan im * 2 ^ (f64Exp im - e).toNat, e - s⟩

end Sys2Proof.Machine
end

