-- ==== Sys2Proof/Machine/Passes.lean ====
section
/-!
DEFINITION. The reference datapath on sample vectors: the split-base encoding (42_passes.md R167), the
three passes of a squaring (R153 to R175), and the decode of an image (43_residue.md R177, R178).
The result is the same whatever the order in which the PEs work inside a phase (20_memory.md R93), so
each pass is given by what it leaves.
-/

namespace Sys2Proof.Machine

/-- A vector of binary64 samples. -/
abbrev Samples := Array (Cx F64)

/-- How an instance evaluates the reals of the carry, the split and the decode: X_EVAL. -/
structure Evaluator where
  b : Nat
  /-- the real (Re + √b·Im)·2^(−s) of a finite sample (42_passes.md R162) -/
  input : (s : Nat) → F64 → F64 → Surd
  /-- r of a split, from z and h (42_passes.md R167) -/
  rest : (z h : Int) → F64

/-- The carry input of an instance that does not evaluate it exactly, held to the law of X_EVAL: under
EXACT it rounds to the integer the exact value rounds to (42_passes.md R162, 92_eei_decisions.md D31). -/
def heldInput (exact : Bool) (b s : Nat) (re im : F64) : Surd :=
  let x : Surd := ⟨(Config.carryInput b s re im).1, 0, (Config.carryInput b s re im).2⟩
  let r := surdOfSample re im s
  if exact && surdRound b x != surdRound b r then r else x

/-- The carry input X_EVAL gives (42_passes.md R162). -/
def inputOf (x : XEval) (exact : Bool) (b s : Nat) (re im : F64) : Surd :=
  match x with
  | .exact => surdOfSample re im s
  | .other => heldInput exact b s re im

/-- The rest of a split: the exact z − h·√b rounded once, or (z − h·sb_hi) − h·sb_lo in binary64
(42_passes.md R167, 10_state.md R64). -/
def restOf (x : SplitEval) (b : Nat) (sbHi sbLo : F64) (z h : Int) : F64 :=
  match x with
  | .exact => f64OfSurd b ⟨z, -h, 0⟩
  | .basePair =>
    let hf := f64OfInt h
    f64Sub (f64Sub (f64OfInt z) (f64Mul hf sbHi)) (f64Mul hf sbLo)

/-- The reference evaluation: exact, with the true √b (42_passes.md R162, R167). -/
def exactEvaluator (b : Nat) : Evaluator where
  b := b
  input s re im := surdOfSample re im s
  rest z h := f64OfSurd b ⟨z, -h, 0⟩

/-- The evaluation X_EVAL selects for a command, which is EXACT or not; the carry input and the split
are chosen independently (42_passes.md R162, R167). -/
def evaluatorOf (x : XEval) (y : SplitEval) (exact : Bool) (b : Nat) (sbHi sbLo : F64) : Evaluator where
  b := b
  input := inputOf x exact b
  rest := restOf y b sbHi sbLo

/-- sb_hi = RN64(√b) (10_state.md R64). -/
def sqrtHi (b : Nat) : F64 := f64OfSurd b ⟨0, 1, 0⟩

/-- sb_lo = RN64(√b − sb_hi) (10_state.md R64). -/
def sqrtLo (b : Nat) : F64 := f64OfSurd b (surdSub ⟨0, 1, 0⟩ (surdOfF64 (sqrtHi b)))

/-- h = round(z/√b), exactly: z/√b is z·√b/b, and its nearest integer is found from
floor((2·|z|·√b + b)/(2·b)) (42_passes.md R167). -/
def splitH (b : Nat) (z : Int) : Int :=
  let m := (floorMulSqrt b (2 * z.natAbs) + b) / (2 * b)
  if z < 0 then -m else m

/-- `split(z)` (42_passes.md R167). DESIGN CHOICE (log 37): a part that is exactly 0 is stored as +0. DESIGN
CHOICE (log 38): an h too large to be exact in binary64, which only a leftover digit of R171 can give, is
rounded by RN64. -/
def splitDigit (ev : Evaluator) (z : Int) : Cx F64 :=
  let h := splitH ev.b z
  ⟨ev.rest z h, f64OfInt h⟩

/-- A sample that is finite in both parts. -/
def sampleFinite (y : Cx F64) : Bool := f64IsFinite y.re && f64IsFinite y.im

/-- round(x) of a sample's carry input, or of its decode, at scale 2^(−s) (42_passes.md R163,
43_residue.md R177). -/
def sampleRound (ev : Evaluator) (s : Nat) (y : Cx F64) : Int :=
  if sampleFinite y then surdRound ev.b (ev.input s y.re y.im) else Config.nonFiniteRound y.re y.im

/-- |x − round(x)| of a sample's carry input, `none` when the sample is not finite (42_passes.md R175). -/
def sampleError (ev : Evaluator) (s : Nat) (y : Cx F64) : Option Surd :=
  if sampleFinite y then
    let x := ev.input s y.re y.im
    some (surdAbs ev.b (surdSub x (surdOfInt (surdRound ev.b x))))
  else none

/-- The larger of two errors; a non-finite sample stays (42_passes.md R175). -/
def errorMax (b : Nat) : Option Surd → Option Surd → Option Surd
  | some x, some y => some (surdMax b x y)
  | _, _ => none

/-- A value kept inside [+0, 0.5], the range ERR always lies in (42_passes.md R175). -/
def clampErr (x : F64) : F64 := if x.toNat < errPatterns then x else f64Half

/-- The binary64 an error accumulator holds: RN64 of the largest error, 0.5 when a sample was not
finite (42_passes.md R175, 10_state.md R62). -/
def errorValue (b : Nat) (e : Option Surd) : F64 :=
  match e with
  | none => f64Half
  | some x => clampErr (f64OfSurd b x)

/-- The forward outer image of a digit vector (41_butterflies.md R133). -/
def outerImage (ev : Evaluator) (l : Nat) (z : Nat → Int) : Samples :=
  forwardOuter f64Arith f64Roots l (lS l) (tabulate (nLen l) fun k => splitDigit ev (z k))

/-- The image of r_m from the image of a residue register: the forward inner transform of every row
(44_commands.md R195). -/
def innerImage (l : Nat) (z : Samples) : Samples := forwardInner f64Arith f64Roots l (lS l) z

/-- PE `pe`'s part of pass 1: of what `f` makes of the vector it writes the rows it owns, and it leaves
every other row (20_memory.md R90, 42_passes.md R155). -/
def pass1Pe (l t pe : Nat) (f : Samples → Samples) (z : Samples) : Samples :=
  let y := f z
  tabulate (nLen l) fun k => if ownsRow l t pe (k / nio l) then sampleAt f64Arith y k else sampleAt f64Arith z k

/-- Pass 1 by all PEs. A row's result depends on its pair alone, so the order of the PEs changes nothing
(20_memory.md R90, R93; 42_passes.md R155). -/
def pass1By (l t : Nat) (f : Samples → Samples) (z : Samples) : Samples :=
  (List.range t).foldl (fun y pe => pass1Pe l t pe f y) z

/-- The squaring of row pairs: forward inner transform, pointwise squaring, inverse inner transform
(42_passes.md R156). -/
def squareRows (l : Nat) (z : Samples) : Samples :=
  inverseInner f64Arith f64Roots l (lS l)
    (squareSpectrum f64Arith f64Half f64Two (f64Rho l) (nLen l) (innerImage l z))

/-- The multiplication of row pairs by the spectrum of r_m (42_passes.md R156). -/
def mulRows (l : Nat) (zp z : Samples) : Samples :=
  inverseInner f64Arith f64Roots l (lS l)
    (mulSpectrum f64Arith f64Half (f64Rho l) (nLen l) (innerImage l z) zp)

/-- Pass 1 of SQUARE_DUP with T PEs (42_passes.md R155, R156). -/
def pass1Square (l t : Nat) (z : Samples) : Samples := pass1By l t (squareRows l) z

/-- Pass 1 of MUL with T PEs, with the spectrum of r_m (42_passes.md R155, R156). -/
def pass1Mul (l t : Nat) (z zp : Samples) : Samples := pass1By l t (mulRows l zp) z

/-- What pass 2 leaves: Z, the carry slots and the error accumulators (42_passes.md R161, R175). -/
structure Pass2Out where
  z : Samples
  slots : List (List Int)
  errAcc : List F64

/-- The largest error over the samples of one PE (42_passes.md R175). -/
def peError (ev : Evaluator) (l t pe : Nat) (y : Samples) : Option Surd :=
  let cols := 8 * (firstGroup l t (pe + 1) - firstGroup l t pe)
  (List.range (rowsOf l * cols)).foldl (fun acc i =>
    errorMax ev.b acc (sampleError ev l
      (sampleAt f64Arith y (i / cols * nio l + 8 * firstGroup l t pe + i % cols))))
    (some (surdOfInt 0))

/-- Pass 2 (42_passes.md R161): the inverse outer transform, the carry of every PE, the digits of each
PE's first column group stored as (z, +0.0), and the others split and transformed. -/
def pass2 (W : LaneWidth) (ev : Evaluator) (l t g : Nat) (z1 : Samples) : Pass2Out :=
  let y := inverseOuter f64Arith f64Roots l (lS l) z1
  let o := tabulate (nLen l) fun k => sampleRound ev l (sampleAt f64Arith y k)
  let tbl := carryTable W ev.b g l t fun k => o.getD k 0
  let digits := tabulate (nLen l) (carryDigit l t tbl)
  let image := outerImage ev l fun k => digits.getD k 0
  { z := tabulate (nLen l) fun k =>
      if inFirstGroup l t k then ⟨f64OfInt (digits.getD k 0), 0⟩ else sampleAt f64Arith image k
    slots := carrySlots l t tbl
    errAcc := (List.range t).map fun pe => errorValue ev.b (peError ev l t pe y) }

/-- Pass 2_1 (42_passes.md R170): the stitch of each PE's first column group, its split and its forward
outer transform. -/
def pass21 (W : LaneWidth) (ev : Evaluator) (l t : Nat) (p : Pass2Out) : Samples :=
  let tbl := stitchTable W ev.b l t (fun k => f64ToInt (sampleAt f64Arith p.z k).re) p.slots
  let image := outerImage ev l fun k =>
    if inFirstGroup l t k then stitchDigit W l t tbl (fun _ => 0) k else 0
  tabulate (nLen l) fun k =>
    if inFirstGroup l t k then sampleAt f64Arith image k else sampleAt f64Arith p.z k

/-- The sequencer's combination of the accumulators (10_state.md R62). -/
def combineErr (acc : List F64) : F64 := acc.foldl (fun m e => f64Max e m) 0

/-- One squaring or multiplication from pass 1's result on: the new image, the carry slots and the
accumulators (42_passes.md R153). -/
def runPasses (W : LaneWidth) (ev : Evaluator) (l t g : Nat) (z1 : Samples) : Samples × List (List Int) × List F64 :=
  let p := pass2 W ev l t g z1
  (pass21 W ev l t p, p.slots, p.errAcc)

/-- What a decode computes in the scratch image X: the inverse outer transform of a copy, and for r_m's image the
inverse inner transform before it (43_residue.md R177, R178). -/
def decodeScratch (full : Bool) (l : Nat) (z : Samples) : Samples :=
  inverseOuter f64Arith f64Roots l (lS l)
    (if full then inverseInner f64Arith f64Roots l (lS l) z else z)

/-- The scale of a decode: 1/S = 2^(−L_S) for an outer image, 1/N for r_m's (43_residue.md R177, R178). -/
def decodeScale (full : Bool) (l : Nat) : Nat := if full then l else lS l

/-- A decoded sample whose digit the spec fixes: finite, and of magnitude below 2^62 (43_residue.md R182). -/
def decodeDefined (ev : Evaluator) (s : Nat) (y : Cx F64) : Bool :=
  sampleFinite y &&
    surdIsNeg ev.b (surdSub (surdAbs ev.b (ev.input s y.re y.im)) (surdOfInt (2 ^ 62)))

/-- The decode of an image: its signed digits, or `none` where the spec leaves the digit vector
unspecified (43_residue.md R177, R178, R182). -/
def decodeDigits (ev : Evaluator) (full : Bool) (l : Nat) (z : Samples) : Option (List Int) :=
  let x := decodeScratch full l z
  let s := decodeScale full l
  let xs := (List.range (nLen l)).map (sampleAt f64Arith x)
  if xs.all (decodeDefined ev s) then some (xs.map (sampleRound ev s)) else none

end Sys2Proof.Machine
end

