-- ==== Sys2Proof/Machine/State.lean ====
section
/-!
DEFINITION. The state of GFSQ (10_state.md) as plain data, the reasons a step can stop, and the state
after reset (70_reset_and_hazards.md R221).
-/

namespace Sys2Proof.Machine

/-- No step of GFSQ faults: it has no trap (60_exceptions.md R212), an error is reported by the
command's error code (R202), and a bad host access is answered with a bus error and changes nothing
(R209). So no constructor stands here. -/
inductive Fault where
  deriving DecidableEq, Repr

/-- Why a command would have no meaning. -/
inductive Refusal where
  /-- The command has no meaning in the model yet. No arm of `exec` answers it: every row of the
  opcode table has its meaning. Raising it would be safe. -/
  | notModelled (mnemonic : String)
  deriving DecidableEq, Repr

/-- STATUS.ERRCODE (60_exceptions.md R202). -/
inductive ErrCode where
  | ok
  | config
  | illegal
  | state
  | reg
  | unwritten
  deriving DecidableEq, Repr

/-- The values of ESTATE of a configured engine (10_state.md R33). -/
inductive Phase where
  /-- r_0 holds no value -/
  | constructed
  /-- r_0 was last written by SET -/
  | initialized
  /-- r_0 was last written by SQUARE_DUP, MUL, COPY or VALIDATE -/
  | spectral
  deriving DecidableEq, Repr

/-- The active configuration (10_state.md R51), with the widths of CFG_B and CFG_SIZE (R35, R36). -/
structure ActiveCfg where
  b : Word
  log2n : BitVec 5
  t : BitVec 8
  numRegs : BitVec 8
  checkError : Bool
  deriving DecidableEq, Repr

/-- The engine: ESTATE = UNCONFIGURED exactly when there is no active configuration (10_state.md R33, R51). -/
inductive Engine where
  | unconfigured
  | configured (cfg : ActiveCfg) (phase : Phase)
  deriving DecidableEq, Repr

/-- The residue registers by their bit of VALID (10_state.md R43): `j` is r_j for `j ≤ 30`, and `31` is r_m. -/
abbrev RegId := Fin 32

/-- The arena: the listed bytes, by offset from the arena's base, in strictly rising order (20_memory.md R84, R88). -/
abbrev Memory := List Host.Cell

/-- The widths of host accesses (20_memory.md R68). -/
inductive AccessWidth where
  | w8
  | w16
  | w32
  | w64
  deriving DecidableEq, Repr

/-- What the world outside the block does next: the host's accesses at physical addresses
(20_memory.md R67, R74) and the platform's reset input (70_reset_and_hazards.md R219). -/
inductive HostEvent where
  | read (addr : Nat) (width : AccessWidth)
  | write (addr : Nat) (width : AccessWidth) (value : DWord)
  /-- the reset input becomes asserted (`true`) or released (`false`) -/
  | resetInput (asserted : Bool)
  /-- one step in which the host makes no access -/
  | quiet
  deriving DecidableEq, Repr

/-- What the host gets back for one access. -/
inductive BusAnswer where
  /-- the value of a read -/
  | data (value : Word)
  /-- a write was taken (it may have been ignored, as its register's rule says) -/
  | done
  /-- the bus error of 60_exceptions.md R209 -/
  | busError
  /-- the address is outside the window: GFSQ does not decode it (60_exceptions.md R209) -/
  | notDecoded
  /-- the reset input is asserted: the block answers no access (70_reset_and_hazards.md R219) -/
  | noAnswer
  deriving DecidableEq, Repr

/-- An image the block has produced and the residue it stands for: the record the restore law
(10_state.md R54(c), 44_commands.md R199) is said with. -/
structure ImageRecord where
  /-- the configuration it was written under: an image has no meaning under another (R199) -/
  cfg : ActiveCfg
  /-- the image of r_m: the full spectrum (10_state.md R53) -/
  full : Bool
  /-- the words of its samples; the gap words are left out (20_memory.md R88) -/
  samples : List DWord
  value : Nat
  deriving DecidableEq, Repr

/-- The state of GFSQ. INVENTORY.md lists each field with its rule. -/
structure State where
  /-- CTRL.IE (10_state.md R31) -/
  ie : Bool
  /-- STATUS.BUSY (10_state.md R32) -/
  busy : Bool
  /-- STATUS.DONE -/
  done : Bool
  /-- STATUS.CMDOVF -/
  cmdOvf : Bool
  /-- STATUS.ERRCODE (60_exceptions.md R202) -/
  errCode : ErrCode
  /-- STATUS.ESTATE and the active configuration (10_state.md R33, R51) -/
  engine : Engine
  /-- STATUS.PWARN (60_exceptions.md R210) -/
  pwarn : Bool
  /-- STATUS.UNREC (60_exceptions.md R211) -/
  unrec : Bool
  /-- STATUS.ONE (44_commands.md R198) -/
  one : Bool
  /-- STATUS.M1 (43_residue.md R180) -/
  m1 : Bool
  /-- STATUS.DVALID (10_state.md R57) -/
  dvalid : Bool
  /-- CMD_LAT, which is also CMD's read value (10_state.md R34, R59) -/
  cmdLat : Word
  /-- CFG_B (10_state.md R35) -/
  cfgB : Word
  /-- CFG_SIZE (10_state.md R36) -/
  cfgSize : Word
  /-- ARG (10_state.md R38) -/
  arg : Word
  /-- ERR (10_state.md R39) -/
  err : F64
  /-- MAXERR (10_state.md R40) -/
  maxErr : F64
  /-- THRESH (10_state.md R41) -/
  thresh : F64
  /-- FP (10_state.md R42) -/
  fp : DWord
  /-- DIG_IDX[22:0] (10_state.md R44) -/
  digIdx : BitVec 23
  /-- RAW_SEL[7:0] (10_state.md R46) -/
  rawSel : BitVec 8
  /-- RAW_IDX[24:0] (10_state.md R47) -/
  rawIdx : BitVec 25
  /-- RAW_LATCH (10_state.md R58) -/
  rawLatch : DWord
  /-- RAW_HOLD (10_state.md R58) -/
  rawHold : Word
  /-- CFG_LAT: the latched CFG_B (10_state.md R59) -/
  cfgLatB : Word
  /-- CFG_LAT: the latched CFG_SIZE (10_state.md R59) -/
  cfgLatSize : Word
  /-- ARG_LAT (10_state.md R59) -/
  argLat : Word
  /-- THRESH_LAT (10_state.md R59) -/
  threshLat : F64
  /-- the abstract values of the residue registers, `none` for ⊥ (10_state.md R52) -/
  regs : Vector (Option Nat) 32
  /-- sb_hi (10_state.md R64) -/
  sbHi : F64
  /-- sb_lo (10_state.md R64) -/
  sbLo : F64
  /-- the arena's images (20_memory.md R84) -/
  arena : Memory
  /-- the digit buffer D (10_state.md R57) -/
  digits : List Word
  /-- the carry slots, F[t][l] (10_state.md R61) -/
  carry : List (List Int)
  /-- the error accumulators e_t (10_state.md R62) -/
  errAcc : List F64
  /-- the level of the reset input (70_reset_and_hazards.md R219) -/
  resetIn : Bool
  /-- MODEL: the steps before the running command's completion (44_commands.md R188) -/
  remaining : Nat
  /-- MODEL: what the host and the platform do next, oldest first (20_memory.md R74) -/
  inputs : List HostEvent
  /-- MODEL: the answers the host got, newest first -/
  answers : List BusAnswer
  /-- MODEL: the counter the free values are applied to -/
  draw : Nat
  /-- MODEL: which draw an unwritten byte of the arena reads as -/
  epoch : Nat
  /-- MODEL: the images produced, with the configuration each was written under -/
  imageLog : List ImageRecord
  deriving DecidableEq, Repr

/-- The binary64 nearest 0.4, THRESH's reset value (10_state.md R41). -/
def threshReset : F64 := 0x3FD999999999999A

/-- The state right after reset (70_reset_and_hazards.md R221). The latches of R59, sb_hi, sb_lo, D,
the carry slots and the error accumulators are unspecified there; their values are the model's (logs
1, 2, 3). -/
def State.reset : State where
  ie := false
  busy := false
  done := false
  cmdOvf := false
  errCode := .ok
  engine := .unconfigured
  pwarn := false
  unrec := false
  one := false
  m1 := false
  dvalid := false
  cmdLat := 0
  cfgB := 0
  cfgSize := 0
  arg := 0
  err := 0
  maxErr := 0
  thresh := threshReset
  fp := 0
  digIdx := 0
  rawSel := 0
  rawIdx := 0
  rawLatch := 0
  rawHold := 0
  cfgLatB := 0
  cfgLatSize := 0
  argLat := 0
  threshLat := 0
  regs := Vector.replicate 32 none
  sbHi := 0
  sbLo := 0
  arena := []
  digits := []
  carry := []
  errAcc := []
  resetIn := false
  remaining := 0
  inputs := []
  answers := []
  draw := 0
  epoch := 0
  imageLog := []

end Sys2Proof.Machine
end

