-- ==== Sys2Proof/Machine/Ops.lean ====
section
/-!
DEFINITION. The named operations over the state: the arena's bytes and images (20_memory.md R82 to
R88), the residue registers (10_state.md R52 to R55), acceptance (44_commands.md R187), completion
(60_exceptions.md R206), which stands where another machine takes an exception (R212), and reset
(70_reset_and_hazards.md R219 to R221).
-/

namespace Sys2Proof.Machine

/-! ### The arena as bytes -/

/-- The listed byte at offset `a`. -/
def memRead (m : Memory) (a : Nat) : Option Byte := m.lookup a

/-- Bytes as cells from offset `a` on. -/
def cellsFrom : Nat → List Byte → Memory
  | _, [] => []
  | a, x :: xs => (a, x) :: cellsFrom (a + 1) xs

/-- Bytes written from offset `a` on. -/
def memWriteBytes (m : Memory) (a : Nat) (bs : List Byte) : Memory :=
  m.filter (fun c => decide (c.1 < a)) ++ cellsFrom a bs ++
    m.filter (fun c => decide (a + bs.length ≤ c.1))

/-- The canonical form: the listed offsets rise strictly. An unlisted byte has no value of its own, so
no entry can equal it. -/
abbrev Memory.wf (m : Memory) : Prop := (m.map Prod.fst).Pairwise (· < ·)

/-- The eight bytes of a word, least significant first (log 5). -/
def wordBytes (w : DWord) : List Byte := (List.range 8).map fun i => w.extractLsb' (8 * i) 8

/-- What byte `a` of the arena reads as: the listed byte, or the free value of a byte nothing has
written (70_reset_and_hazards.md R221, log 4). -/
def arenaByte (s : State) (a : Nat) : Byte := (memRead s.arena a).getD (Config.unwrittenByte s.epoch a)

/-- The 64-bit word at byte offset `a` (20_memory.md R88). -/
def arenaWord (s : State) (a : Nat) : DWord :=
  arenaByte s (a + 7) ++ arenaByte s (a + 6) ++ arenaByte s (a + 5) ++ arenaByte s (a + 4) ++
    arenaByte s (a + 3) ++ arenaByte s (a + 2) ++ arenaByte s (a + 1) ++ arenaByte s a

/-! ### The configuration's numbers -/

/-- b. -/
def cfgBase (c : ActiveCfg) : Nat := c.b.toNat

/-- LOG2N. -/
def cfgL (c : ActiveCfg) : Nat := c.log2n.toNat

/-- T. -/
def cfgT (c : ActiveCfg) : Nat := c.t.toNat

/-- NUM_REGS. -/
def cfgR (c : ActiveCfg) : Nat := c.numRegs.toNat

/-- n = b^N + 1. -/
def cfgMod (c : ActiveCfg) : Nat := modulus (cfgBase c) (cfgL c)

/-! ### The views of the arena -/

/-- r_m's place among the residue registers (10_state.md R43). -/
def regM : RegId := 31

/-- The bytes of one image: 16·index(N) (20_memory.md R82, R84). -/
def imageBytesOf (l : Nat) : Nat := 16 * padIndex l (nLen l)

/-- The place of a register's view: Z, Zp, R_1 … (20_memory.md R84). -/
def viewIndex (j : RegId) : Nat := if j = 0 then 0 else if j = regM then 1 else j.val + 1

/-- The offset of a register's image (20_memory.md R84). -/
def imageBase (l : Nat) (j : RegId) : Nat := viewIndex j * imageBytesOf l

/-- The offset of the scratch image X (20_memory.md R84). -/
def scratchBase (l r : Nat) : Nat := (r + 2) * imageBytesOf l

/-- The offset of the table w122i (20_memory.md R84). -/
def w122iBase (l r : Nat) : Nat := (r + 3) * imageBytesOf l

/-- The offset of the table ws (20_memory.md R84). -/
def wsBase (l r : Nat) : Nat := w122iBase l r + 16 * (nLen l / 8)

/-- The offset of the carry slots (20_memory.md R84). -/
def slotsBase (l r : Nat) : Nat := wsBase l r + 16 * (nLen l / 8)

/-! ### Images -/

/-- Raw word `w` of register j's image (20_memory.md R88). -/
def imgWord (s : State) (l : Nat) (j : RegId) (w : Nat) : DWord := arenaWord s (imageBase l j + 8 * w)

/-- The internal physical address of a byte of the arena (20_memory.md R80, R86). -/
def arenaAddress (off : Nat) : Nat := Config.arenaBase + off

/-- A PE's vector access to register j's image: the W words from word W·i on (20_memory.md R86,
40_lane_vector.md R111). -/
def imgVector (W : LaneWidth) (s : State) (l : Nat) (j : RegId) (i : Nat) : Vd F64 W.lanes :=
  vdLoad W.lanes (imgWord s l j) i

/-- Raw word `w` holds a part of a sample, not a gap (20_memory.md R82, R88). -/
def isSampleWord (l w : Nat) : Bool := decide (w / 2 % (nio l + 4) < nio l)

/-- The words of an image that hold samples (20_memory.md R88). -/
def sampleWords (l : Nat) (f : Nat → DWord) : List DWord :=
  ((List.range (rawWordsOf l)).filter (isSampleWord l)).map f

/-- The samples of register j's image: words 2·index(k) and 2·index(k) + 1 (20_memory.md R88). -/
def imageSamples (s : State) (l : Nat) (j : RegId) : Samples :=
  tabulate (nLen l) fun k => ⟨imgWord s l j (2 * padIndex l k), imgWord s l j (2 * padIndex l k + 1)⟩

/-- Word `w` of the image that holds these samples, the gap words being draws (20_memory.md R88). -/
def sampleImageWord (l : Nat) (z : Samples) (gap : Nat → DWord) (w : Nat) : DWord :=
  if isSampleWord l w then
    let x := sampleAt f64Arith z (w / 2 / (nio l + 4) * nio l + w / 2 % (nio l + 4))
    if w % 2 = 0 then x.re else x.im
  else gap w

/-- Word `w` of an image a command writes: the reference datapath's, or a draw under another schedule
(10_state.md R54, 41_butterflies.md R146). -/
def writtenWord (d : Draws) (l : Nat) (z : Samples) (w : Nat) : DWord :=
  match d.schedule with
  | .reference => sampleImageWord l z d.image w
  | .other => d.image w

/-- The bytes of an image given by its words. -/
def imageBytes (l : Nat) (f : Nat → DWord) : List Byte :=
  (List.range (rawWordsOf l)).flatMap fun w => wordBytes (f w)

/-- Register j gets the value v and an image of these words: its view is written, its VALID bit is set,
and the image is recorded with its value (10_state.md R52 to R55). -/
def putImage (s : State) (c : ActiveCfg) (j : RegId) (v : Nat) (f : Nat → DWord) : State :=
  { s with
    arena := memWriteBytes s.arena (imageBase (cfgL c) j) (imageBytes (cfgL c) f)
    regs := s.regs.set j (some v)
    imageLog := ⟨c, j == regM, sampleWords (cfgL c) f, v⟩ :: s.imageLog }

/-- The scratch image X gets these words (10_state.md R65). -/
def putScratch (s : State) (c : ActiveCfg) (f : Nat → DWord) : State :=
  { s with arena := memWriteBytes s.arena (scratchBase (cfgL c) (cfgR c)) (imageBytes (cfgL c) f) }

/-- Every image on record that was written under this configuration, with these sample words and of this
kind, stands for v: what EXACT of a VALIDATE implies (10_state.md R54(c), 44_commands.md R189, R199). -/
def logAgrees (s : State) (c : ActiveCfg) (full : Bool) (samples : List DWord) (v : Nat) : Bool :=
  s.imageLog.all fun r => !(r.cfg == c && r.full == full && r.samples == samples) || r.value == v

/-- ESTATE of a configured engine (10_state.md R33). -/
def setPhase (s : State) (c : ActiveCfg) (p : Phase) : State := { s with engine := .configured c p }

/-! ### Completion and the checks -/

/-- `complete(code)`: the command ends in one step (60_exceptions.md R206). The counter of draws moves on. -/
def complete (code : ErrCode) (s : State) : State :=
  { s with errCode := code, busy := false, done := true, draw := s.draw + 1 }

/-- A residue command that ends with OK. What the scratch image X holds afterwards is any value, whether
the command decoded through X or not: a fresh free value (10_state.md R65, 93_implementation_defined.md
section 3; log 34). -/
def finish (d : Draws) (c : ActiveCfg) (s : State) : State := complete .ok (putScratch s c d.scratch)

/-- The STATE check (60_exceptions.md R204): completes with STATE when there is no configuration. -/
def withEngine (s : State) (k : ActiveCfg → Phase → State) : State :=
  match s.engine with
  | .unconfigured => complete .state s
  | .configured c p => k c p

/-- The REG check of one field (60_exceptions.md R204). -/
def withField (s : State) (r : Option RegId) (k : RegId → State) : State :=
  match r with
  | none => complete .reg s
  | some j => k j

/-- The UNWRITTEN check of one register (60_exceptions.md R204): completes with UNWRITTEN when it holds ⊥. -/
def withValue (s : State) (j : RegId) (k : Nat → State) : State :=
  match s.regs[j] with
  | none => complete .unwritten s
  | some v => k v

/-! ### Acceptance and reset -/

/-- The latching of acceptance (44_commands.md R187, 10_state.md R59): CMD_LAT takes the word, the
operand registers the command uses are latched, BUSY is set and DONE cleared. -/
def latchCommand (w : Word) (s : State) : State :=
  let op := opField w
  { s with
    cmdLat := w
    busy := true
    done := false
    cfgLatB := if op = 1 then s.cfgB else s.cfgLatB
    cfgLatSize := if op = 1 then s.cfgSize else s.cfgLatSize
    argLat := if op = 2 then s.arg else s.argLat
    threshLat := if op = 3 ∨ op = 6 then s.thresh else s.threshLat }

/-- Acceptance of a command word (44_commands.md R187); how many steps the command will run is a draw
(R188). -/
def acceptCommand (w : Word) (s : State) : State :=
  { latchCommand w s with remaining := Config.duration s.draw, draw := s.draw + 1 }

/-- The reset state, with what is not the block's own kept: the world's list, the answers given, the
record of images (their words may be restored after the reset, 44_commands.md R199), and the counter of
draws, which moves on so that what is unspecified after this reset is drawn afresh. -/
def resetState (s : State) : State :=
  { State.reset with
    inputs := s.inputs
    answers := s.answers
    imageLog := s.imageLog
    draw := s.draw + 1
    epoch := s.draw }

/-- A soft reset (70_reset_and_hazards.md R220): a running command is abandoned, and every piece of
state takes its reset value. -/
def softReset (s : State) : State := resetState s

/-- The reset input's level changes: every piece of state has its reset value while it is asserted and
when it is released (70_reset_and_hazards.md R219). A release of an input that is not asserted is no
change. -/
def setResetInput (asserted : Bool) (s : State) : State :=
  if asserted then { resetState s with resetIn := true }
  else if s.resetIn then resetState s
  else s

end Sys2Proof.Machine
end

