-- ==== Sys2Proof/Machine/Operands.lean ====
section
/-!
DEFINITION. Every operand form of the commands: register index fields (30_encoding.md R97), the latched
configuration (10_state.md R36, R59), SET's integer (R38), and the register the raw window reaches
(R46).
-/

namespace Sys2Proof.Machine

/-- A register index of COPY or INIT_MULT: [0, NUM_REGS] names r_j (30_encoding.md R97). No
configuration has more than 30 registers beside r_0 (00_scope.md R13). -/
def regOperand (c : ActiveCfg) (j : Nat) : Option RegId :=
  if h : j ≤ cfgR c ∧ j ≤ 30 then some ⟨j, by omega⟩ else none

/-- VALIDATE's DST: [0, NUM_REGS] names r_j, and 0xFF names r_m (30_encoding.md R97). -/
def validateOperand (c : ActiveCfg) (j : Nat) : Option RegId :=
  if j = 0xFF then some regM else regOperand c j

/-- The bits of CFG_SIZE that hold something (10_state.md R36). -/
def cfgSizeMask : Word := 0x01FFFF1F

/-- The configuration in the latches (10_state.md R36, R59). -/
def latchedCfg (s : State) : ActiveCfg where
  b := s.cfgLatB
  log2n := s.cfgLatSize.extractLsb' 0 5
  t := s.cfgLatSize.extractLsb' 8 8
  numRegs := s.cfgLatSize.extractLsb' 16 8
  checkError := s.cfgLatSize.getLsbD 24

/-- A configuration in the layout of CFG_SIZE (10_state.md R36, R51). -/
def cfgSizeWord (c : ActiveCfg) : Word :=
  BitVec.ofNat 32 (cfgL c + cfgT c * 2 ^ 8 + cfgR c * 2 ^ 16 + c.checkError.toNat * 2 ^ 24)

/-- The tests CONFIGURE makes of its operands, in their order (44_commands.md R191). -/
def configAccepted (p : Sizes) (c : ActiveCfg) : Bool :=
  (cfgBase c % 2 == 0 && decide (2 ≤ cfgBase c) && decide (10 ≤ cfgL c) && decide (cfgL c ≤ 23)) &&
  decide (cfgBase c ≤ p.bMax (cfgL c)) &&
  (decide (1 ≤ cfgT c) && decide (cfgT c ≤ min p.tMax (nio (cfgL c) / 8))) &&
  decide (cfgR c ≤ p.nregsMax) &&
  decide (arenaReq (cfgL c) (cfgT c) (cfgR c) ≤ p.arenaBytes)

/-- SET's integer: ARG_LAT as two's complement (44_commands.md R192). -/
def setOperand (s : State) : Int := s.argLat.toInt

/-- The register RAW_SEL selects in a configuration (10_state.md R46). -/
def rawSelected (c : ActiveCfg) (sel : BitVec 8) : Option RegId := validateOperand c sel.toNat

/-- The word the raw window reaches: its configuration's LOG2N, its register and its index, when BUSY
is 0, a register is selected and RAW_IDX < RAW_WORDS (10_state.md R48, R49; 20_memory.md R76). -/
def rawTarget (s : State) : Option (Nat × RegId × Nat) :=
  match s.engine with
  | .unconfigured => none
  | .configured c _ =>
    match rawSelected c s.rawSel with
    | none => none
    | some j =>
      if s.busy = false ∧ s.rawIdx.toNat < rawWordsOf (cfgL c) then some (cfgL c, j, s.rawIdx.toNat)
      else none

/-- The digit the digit window reaches, when BUSY is 0, DVALID is 1 and DIG_IDX < N (10_state.md R45). -/
def digitTarget (s : State) : Option Word :=
  match s.engine with
  | .unconfigured => none
  | .configured c _ =>
    if s.busy = false ∧ s.dvalid = true ∧ s.digIdx.toNat < nLen (cfgL c) then
      some (s.digits.getD s.digIdx.toNat 0)
    else none

end Sys2Proof.Machine
end

