-- ==== Sys2Proof/Machine/Flags.lean ====
section
/-!
DEFINITION. Every flag computation: the precision flags and the running maximum (60_exceptions.md R210,
R211; 10_state.md R40), STATUS (10_state.md R32), VALID (R43) and IRQ (60_exceptions.md R207).
-/

namespace Sys2Proof.Machine

/-- PWARN: ERR > THRESH_LAT in binary64 (60_exceptions.md R210). -/
def pwarnOf (err threshLat : F64) : Bool := f64Lt threshLat err

/-- UNREC: ERR ≥ 0.5 (60_exceptions.md R211). -/
def unrecOf (err : F64) : Bool := f64Le f64Half err

/-- MAXERR ← (ERR > MAXERR) ? ERR : MAXERR, in binary64 (10_state.md R40). -/
def maxErrOf (err maxErr : F64) : F64 := if f64Lt maxErr err then err else maxErr

/-- The code of an error (60_exceptions.md R202). -/
def errCodeNumber : ErrCode → Nat
  | .ok => 0
  | .config => 1
  | .illegal => 2
  | .state => 3
  | .reg => 4
  | .unwritten => 5

/-- The encoding of ESTATE (10_state.md R33). -/
def estateNumber : Engine → Nat
  | .unconfigured => 0
  | .configured _ .constructed => 1
  | .configured _ .initialized => 2
  | .configured _ .spectral => 3

/-- STATUS as the host reads it (10_state.md R32). -/
def statusWord (s : State) : Word :=
  BitVec.ofNat 32 (s.busy.toNat + s.done.toNat * 2 + s.cmdOvf.toNat * 4 +
    errCodeNumber s.errCode * 2 ^ 4 + estateNumber s.engine * 2 ^ 8 + s.pwarn.toNat * 2 ^ 12 +
    s.unrec.toNat * 2 ^ 13 + s.one.toNat * 2 ^ 14 + s.m1.toNat * 2 ^ 15 + s.dvalid.toNat * 2 ^ 16)

/-- VALID as the host reads it: bit j is set when r_j holds a value, bit 31 when r_m does (10_state.md R43). -/
def validWord (s : State) : Word :=
  BitVec.ofNat 32 (((List.finRange 32).map fun j => (s.regs[j]).isSome.toNat * 2 ^ j.val).sum)

/-- IRQ = CTRL.IE AND STATUS.DONE (60_exceptions.md R207). -/
def irq (s : State) : Bool := s.ie && s.done

end Sys2Proof.Machine
end

