-- ==== Sys2Proof/Machine/Control.lean ====
section
/-!
DEFINITION. NOP and CONFIGURE (44_commands.md R190, R191), and what the sequencer does with an illegal
word (30_encoding.md R101).
-/

namespace Sys2Proof.Machine

/-- NOP completes with OK (44_commands.md R190). -/
def execNop (s : State) : Host.Outcome State Fault Refusal := .next (complete .ok s)

/-- The writes of a successful CONFIGURE (44_commands.md R191). The arena is laid out anew: until an
image is written its bytes are unspecified (log 6). DESIGN CHOICE (log 36): the digit buffer, the carry slots
and the error accumulators, which no rule gives contents here, keep what they hold. -/
def applyConfig (c : ActiveCfg) (s : State) : State :=
  { s with
    engine := .configured c .constructed
    sbHi := sqrtHi (cfgBase c)
    sbLo := sqrtLo (cfgBase c)
    regs := Vector.replicate 32 none
    arena := []
    epoch := s.draw
    err := 0
    maxErr := 0
    fp := 0
    pwarn := false
    unrec := false
    one := false
    m1 := false
    dvalid := false }

/-- CONFIGURE on a block of these sizes (44_commands.md R191). -/
def configureWith (p : Sizes) (s : State) : State :=
  if configAccepted p (latchedCfg s) then complete .ok (applyConfig (latchedCfg s) s)
  else complete .config s

/-- CONFIGURE (44_commands.md R191). -/
def execConfigure (s : State) : Host.Outcome State Fault Refusal := .next (configureWith Config.sizes s)

/-- An illegal word completes with ILLEGAL and changes nothing else (30_encoding.md R101). -/
def runIllegal (s : State) : State := complete .illegal s

end Sys2Proof.Machine
end

