-- ==== Sys2Proof/Machine/Residues.lean ====
section
/-!
DEFINITION. SET, COPY, INIT_MULT and VALIDATE (44_commands.md R192, R194, R195, R199).
-/

namespace Sys2Proof.Machine

/-- The evaluation the instance uses for this command, with the base parameters CONFIGURE computed
(10_state.md R64). -/
def evaluator (d : Draws) (c : ActiveCfg) (s : State) : Evaluator :=
  evaluatorOf d.xEval d.splitEval d.exact (cfgBase c) s.sbHi s.sbLo

/-- The image of SET: the outer image of the balanced expansion of a (44_commands.md R192). -/
def setImage (d : Draws) (c : ActiveCfg) (s : State) : Nat → DWord :=
  let digits := (balancedDigits (cfgBase c) (nLen (cfgL c)) (setOperand s)).toArray
  writtenWord d (cfgL c) (outerImage (evaluator d c s) (cfgL c) fun k => digits.getD k 0)

/-- SET with the open parameters of the command. -/
def setWith (d : Draws) (s : State) : State :=
  withEngine s fun c _ =>
    finish d c (setPhase (putImage s c 0 (residueOf (cfgMod c) (setOperand s)) (setImage d c s))
      c .initialized)

/-- SET (44_commands.md R192). -/
def execSet (s : State) : Host.Outcome State Fault Refusal := .next (setWith (Config.draws s.draw) s)

/-- COPY with the open parameters of the command: the value and every word of the image
(44_commands.md R194). -/
def copyWith (d : Draws) (dst src : Nat) (s : State) : State :=
  withEngine s fun c p =>
    withField s (regOperand c dst) fun j =>
      withField s (regOperand c src) fun r =>
        withValue s r fun v =>
          finish d c (setPhase (putImage s c j v (imgWord s (cfgL c) r)) c
            (if j = 0 then .spectral else p))

/-- COPY (44_commands.md R194). -/
def execCopy (dst src : Nat) (s : State) : Host.Outcome State Fault Refusal :=
  .next (copyWith (Config.draws s.draw) dst src s)

/-- INIT_MULT with the open parameters of the command: the forward inner transform of the source's
image (44_commands.md R195). -/
def initMultWith (d : Draws) (src : Nat) (s : State) : State :=
  withEngine s fun c _ =>
    withField s (regOperand c src) fun r =>
      withValue s r fun v =>
        finish d c (putImage s c regM v
          (writtenWord d (cfgL c) (innerImage (cfgL c) (imageSamples s (cfgL c) r))))

/-- INIT_MULT (44_commands.md R195). -/
def execInitMult (src : Nat) (s : State) : Host.Outcome State Fault Refusal :=
  .next (initMultWith (Config.draws s.draw) src s)

/-- V(z) of the decode of register j's image, by the instance's schedule; `none` where the spec leaves
the digits unspecified (43_residue.md R177, R178, R182). -/
def decodeValue (d : Draws) (c : ActiveCfg) (j : RegId) (s : State) : Option Nat :=
  match d.schedule with
  | .reference =>
    (decodeDigits (evaluator d c s) (j == regM) (cfgL c) (imageSamples s (cfgL c) j)).map fun z =>
      residueOf (cfgMod c) (digitSum (cfgBase c) z)
  | .other => some (residueOf (cfgMod c)
      (Config.otherDecode (j == regM) (cfgBase c) (cfgL c) (sampleWords (cfgL c) (imgWord s (cfgL c) j))))

/-- The value VALIDATE gives: V(z) under EXACT, which implies that the decode is defined and agrees with
every image on record of the same words; otherwise any residue (44_commands.md R189, R199). -/
def validateValue (d : Draws) (c : ActiveCfg) (j : RegId) (s : State) : Nat :=
  match decodeValue d c j s with
  | none => d.residue % cfgMod c
  | some v =>
    if d.exact && logAgrees s c (j == regM) (sampleWords (cfgL c) (imgWord s (cfgL c) j)) v then v
    else d.residue % cfgMod c

/-- VALIDATE with the open parameters of the command (44_commands.md R199). Its decode works in the
scratch image, whose contents it leaves unspecified (43_residue.md R177, R178; log 34). -/
def validateWith (d : Draws) (dst : Nat) (s : State) : State :=
  withEngine s fun c p =>
    withField s (validateOperand c dst) fun j =>
      let v := validateValue d c j s
      finish d c
        { s with
          regs := s.regs.set j (some v)
          imageLog := ⟨c, j == regM, sampleWords (cfgL c) (imgWord s (cfgL c) j), v⟩ :: s.imageLog
          engine := .configured c (if j = 0 then .spectral else p) }

/-- VALIDATE (44_commands.md R199). -/
def execValidate (dst : Nat) (s : State) : Host.Outcome State Fault Refusal :=
  .next (validateWith (Config.draws s.draw) dst s)

end Sys2Proof.Machine
end

