-- ==== Sys2Proof/Machine/Readout.lean ====
section
/-!
DEFINITION. GET_INT and IS_ONE (44_commands.md R197, R198).
-/

namespace Sys2Proof.Machine

/-- The canonical form GET_INT and IS_ONE give: of r_0's value under EXACT, of any residue otherwise
(44_commands.md R189, R197; 43_residue.md R181). -/
def readoutCanon (d : Draws) (c : ActiveCfg) (v : Nat) : Canon :=
  canonOf (cfgBase c) (nLen (cfgL c)) (if d.exact then v else d.residue % cfgMod c)

/-- What both write: D, DVALID and M1 (44_commands.md R197, 10_state.md R57). -/
def putDigits (k : Canon) (s : State) : State :=
  { s with digits := k.digits.map digitWord, dvalid := true, m1 := k.m1 }

/-- GET_INT with the open parameters of the command (44_commands.md R197). -/
def getIntWith (d : Draws) (s : State) : State :=
  withEngine s fun c _ =>
    withValue s 0 fun v => finish d c (putDigits (readoutCanon d c v) s)

/-- GET_INT (44_commands.md R197). -/
def execGetInt (s : State) : Host.Outcome State Fault Refusal := .next (getIntWith (Config.draws s.draw) s)

/-- IS_ONE with the open parameters of the command (44_commands.md R198). -/
def isOneWith (d : Draws) (s : State) : State :=
  withEngine s fun c _ =>
    withValue s 0 fun v =>
      let k := readoutCanon d c v
      finish d c { putDigits k s with one := canonIsOne k, fp := fingerprint k.digits }

/-- IS_ONE (44_commands.md R198). -/
def execIsOne (s : State) : Host.Outcome State Fault Refusal := .next (isOneWith (Config.draws s.draw) s)

end Sys2Proof.Machine
end

