-- ==== Sys2Proof/Machine/Squaring.lean ====
section
/-!
DEFINITION. SQUARE_DUP and MUL (44_commands.md R193, R196).
-/

namespace Sys2Proof.Machine

/-- What a squaring leaves in the datapath: the words of r_0's new image, ERR, the carry slots and the
error accumulators. -/
structure SquareOut where
  word : Nat → DWord
  err : F64
  slots : List (List Int)
  errAcc : List F64

/-- The passes from pass 1's result on, by the instance's schedule: the reference datapath, or draws
(42_passes.md R153, R175, R176; 10_state.md R54). With CHECK_ERROR = 0 the accumulators stay +0.0 and
ERR is +0.0 (42_passes.md R175). -/
def squareOut (d : Draws) (c : ActiveCfg) (s : State) (g : Nat) (z1 : Samples) : SquareOut :=
  match d.schedule with
  | .reference =>
    let r := runPasses d.lanes (evaluator d c s) (cfgL c) (cfgT c) g z1
    let acc := if c.checkError then r.2.2 else List.replicate (cfgT c) 0
    { word := sampleImageWord (cfgL c) r.1 d.image
      err := combineErr acc
      slots := r.2.1
      errAcc := acc }
  | .other =>
    let acc := (List.range (cfgT c)).map fun t =>
      if c.checkError then BitVec.ofNat 64 (d.errv t).val else 0
    { word := d.image
      err := combineErr acc
      slots := (List.range (cfgT c)).map fun t => (List.range (rowsOf (cfgL c))).map (d.carrySlot t)
      errAcc := acc }

/-- What SQUARE_DUP and MUL write at completion, beside r_0's value v (44_commands.md R193, R196). DESIGN CHOICE
(log 36): the carry slots and the error accumulators keep this squaring's values until the next one. -/
def finishSquare (d : Draws) (c : ActiveCfg) (v : Nat) (out : SquareOut) (s : State) : State :=
  let t := setPhase (putImage s c 0 v out.word) c .spectral
  finish d c
    { t with
      err := out.err
      maxErr := maxErrOf out.err s.maxErr
      pwarn := pwarnOf out.err s.threshLat
      unrec := unrecOf out.err
      carry := out.slots
      errAcc := out.errAcc }

/-- g (00_scope.md R17). -/
def gainOf (dup : Bool) : Nat := if dup then 2 else 1

/-- r_0 after SQUARE_DUP: g·v² mod n under EXACT, any residue otherwise (44_commands.md R193). -/
def squareValue (d : Draws) (c : ActiveCfg) (dup : Bool) (v : Nat) : Nat :=
  if d.exact then gainOf dup * v ^ 2 % cfgMod c else d.residue % cfgMod c

/-- SQUARE_DUP with the open parameters of the command (44_commands.md R193). -/
def squareDupWith (d : Draws) (dup : Bool) (s : State) : State :=
  withEngine s fun c _ =>
    withValue s 0 fun v =>
      finishSquare d c (squareValue d c dup v)
        (squareOut d c s (gainOf dup) (pass1Square (cfgL c) (cfgT c) (imageSamples s (cfgL c) 0))) s

/-- SQUARE_DUP (44_commands.md R193). -/
def execSquareDup (dup : Bool) (s : State) : Host.Outcome State Fault Refusal :=
  .next (squareDupWith (Config.draws s.draw) dup s)

/-- r_0 after MUL: v·u mod n under EXACT, any residue otherwise (44_commands.md R196). -/
def mulValue (d : Draws) (c : ActiveCfg) (v u : Nat) : Nat :=
  if d.exact then v * u % cfgMod c else d.residue % cfgMod c

/-- MUL with the open parameters of the command; g is 1 (44_commands.md R196, 42_passes.md R154). -/
def mulWith (d : Draws) (s : State) : State :=
  withEngine s fun c _ =>
    withValue s 0 fun v =>
      withValue s regM fun u =>
        finishSquare d c (mulValue d c v u)
          (squareOut d c s 1
            (pass1Mul (cfgL c) (cfgT c) (imageSamples s (cfgL c) 0) (imageSamples s (cfgL c) regM))) s

/-- MUL (44_commands.md R196). -/
def execMul (s : State) : Host.Outcome State Fault Refusal := .next (mulWith (Config.draws s.draw) s)

end Sys2Proof.Machine
end

