-- ==== Sys2Proof/Machine/Dispatch.lean ====
section
/-!
DEFINITION. The meaning of each command, one arm per row of the opcode table.
-/

namespace Sys2Proof.Machine

/-- Runs a decoded command to its completion (44_commands.md R190 to R199). -/
def exec (i : Instr) (s : State) : Host.Outcome State Fault Refusal :=
  match i with
  | .nop => Sys2Proof.Machine.execNop s
  | .configure => Sys2Proof.Machine.execConfigure s
  | .set => Sys2Proof.Machine.execSet s
  | .squareDup dup => Sys2Proof.Machine.execSquareDup dup s
  | .copy dst src => Sys2Proof.Machine.execCopy dst src s
  | .initMult src => Sys2Proof.Machine.execInitMult src s
  | .mul => Sys2Proof.Machine.execMul s
  | .getInt => Sys2Proof.Machine.execGetInt s
  | .isOne => Sys2Proof.Machine.execIsOne s
  | .validate dst => Sys2Proof.Machine.execValidate dst s

end Sys2Proof.Machine
end

