-- ==== Sys2Proof/Machine/Window.lean ====
section
/-!
DEFINITION. The register window (10_state.md R28 to R51) and the host's accesses to it (20_memory.md
R67 to R77, 60_exceptions.md R208, R209).
-/

namespace Sys2Proof.Machine

/-- The named registers of the window (10_state.md R28). -/
inductive WinReg where
  | id
  | caps
  | ctrl
  | status
  | cmd
  | cfgB
  | cfgSize
  | actNio
  | arg
  | errLo
  | errHi
  | maxErrLo
  | maxErrHi
  | threshLo
  | threshHi
  | fpLo
  | fpHi
  | valid
  | digIdx
  | digData
  | rawSel
  | rawIdx
  | rawLo
  | rawHi
  | rawWords
  | actB
  | actSize
  deriving DecidableEq, Repr

/-- The registers in the order of their offsets, which are 0, 4, 8, … (10_state.md R28). -/
def winRegs : List WinReg :=
  [.id, .caps, .ctrl, .status, .cmd, .cfgB, .cfgSize, .actNio, .arg, .errLo, .errHi, .maxErrLo,
    .maxErrHi, .threshLo, .threshHi, .fpLo, .fpHi, .valid, .digIdx, .digData, .rawSel, .rawIdx,
    .rawLo, .rawHi, .rawWords, .actB, .actSize]

/-- The offset of a register (10_state.md R28). -/
def offsetOf : WinReg → Nat
  | .id => 0x000
  | .caps => 0x004
  | .ctrl => 0x008
  | .status => 0x00C
  | .cmd => 0x010
  | .cfgB => 0x014
  | .cfgSize => 0x018
  | .actNio => 0x01C
  | .arg => 0x020
  | .errLo => 0x024
  | .errHi => 0x028
  | .maxErrLo => 0x02C
  | .maxErrHi => 0x030
  | .threshLo => 0x034
  | .threshHi => 0x038
  | .fpLo => 0x03C
  | .fpHi => 0x040
  | .valid => 0x044
  | .digIdx => 0x048
  | .digData => 0x04C
  | .rawSel => 0x050
  | .rawIdx => 0x054
  | .rawLo => 0x058
  | .rawHi => 0x05C
  | .rawWords => 0x060
  | .actB => 0x064
  | .actSize => 0x068

/-- The register at an aligned offset, if one is named there (20_memory.md R71). -/
def regAtOffset (off : Nat) : Option WinReg := winRegs.find? fun r => offsetOf r == off

/-- Bits 31:0 of a 64-bit quantity (20_memory.md R70). -/
def loHalf (x : BitVec 64) : Word := x.extractLsb' 0 32

/-- Bits 63:32 of a 64-bit quantity (20_memory.md R70). -/
def hiHalf (x : BitVec 64) : Word := x.extractLsb' 32 32

/-- A 64-bit quantity from its halves: {hi, lo} (20_memory.md R70). -/
def joinHalves (hi lo : Word) : BitVec 64 := hi ++ lo

/-- The byte of a register on byte lane i: bits 8i + 7 … 8i (20_memory.md R69). -/
def byteLane (v : Word) (i : Nat) : Byte := v.extractLsb' (8 * i) 8

/-- ID of an instance with these parameters (10_state.md R29). -/
def idWordOf (lanes tMax nregsMax : Nat) : Word :=
  BitVec.ofNat 32 (lanes + tMax * 2 ^ 8 + nregsMax * 2 ^ 16 + 0x47 * 2 ^ 24)

/-- CAPS: LOG2N_MIN = 10, LOG2N_MAX = 23, revision 1 (10_state.md R30). -/
def capsWord : Word := BitVec.ofNat 32 (10 + 23 * 2 ^ 8 + 1 * 2 ^ 24)

/-- What a read-out of the active configuration reads: 0 while ESTATE = UNCONFIGURED (10_state.md R37,
R50, R51). -/
def engineRead (s : State) (f : ActiveCfg → Word) : Word :=
  match s.engine with
  | .unconfigured => 0
  | .configured c _ => f c

/-- A read of DIG_DATA (10_state.md R45). -/
def readDigData (s : State) : Word × State :=
  match digitTarget s with
  | none => (0, s)
  | some d => (d, { s with digIdx := s.digIdx + 1 })

/-- A read of RAW_LO (10_state.md R48). -/
def readRawLo (s : State) : Word × State :=
  match rawTarget s with
  | none => (0, s)
  | some (l, j, w) => (loHalf (imgWord s l j w), { s with rawLatch := imgWord s l j w })

/-- A read of RAW_HI (10_state.md R49). -/
def readRawHi (s : State) : Word × State :=
  match rawTarget s with
  | none => (0, s)
  | some _ => (hiHalf s.rawLatch, { s with rawIdx := s.rawIdx + 1 })

/-- A read of a named register: its value and the state after its side effect (10_state.md R29 to R51,
20_memory.md R72). -/
def readReg (r : WinReg) (s : State) : Word × State :=
  match r with
  | .id => (idWordOf Config.laneWidth.lanes Config.tMax Config.nregsMax.val, s)
  | .caps => (capsWord, s)
  | .ctrl => (BitVec.ofNat 32 s.ie.toNat, s)
  | .status => (statusWord s, s)
  | .cmd => (s.cmdLat, s)
  | .cfgB => (s.cfgB, s)
  | .cfgSize => (s.cfgSize, s)
  | .actNio => (engineRead s fun c => BitVec.ofNat 32 (nio (cfgL c)), s)
  | .arg => (s.arg, s)
  | .errLo => (loHalf s.err, s)
  | .errHi => (hiHalf s.err, s)
  | .maxErrLo => (loHalf s.maxErr, s)
  | .maxErrHi => (hiHalf s.maxErr, s)
  | .threshLo => (loHalf s.thresh, s)
  | .threshHi => (hiHalf s.thresh, s)
  | .fpLo => (loHalf s.fp, s)
  | .fpHi => (hiHalf s.fp, s)
  | .valid => (validWord s, s)
  | .digIdx => (s.digIdx.setWidth 32, s)
  | .digData => readDigData s
  | .rawSel => (s.rawSel.setWidth 32, s)
  | .rawIdx => (s.rawIdx.setWidth 32, s)
  | .rawLo => readRawLo s
  | .rawHi => readRawHi s
  | .rawWords => (engineRead s fun c => BitVec.ofNat 32 (rawWordsOf (cfgL c)), s)
  | .actB => (engineRead s fun c => c.b, s)
  | .actSize => (engineRead s cfgSizeWord, s)

/-- A write of CTRL (10_state.md R31, 70_reset_and_hazards.md R220). -/
def writeCtrl (v : Word) (s : State) : State :=
  if v.getLsbD 1 then softReset s else { s with ie := v.getLsbD 0 }

/-- A write of STATUS: DONE and CMDOVF clear where 1 is written (10_state.md R32). -/
def writeStatus (v : Word) (s : State) : State :=
  { s with done := s.done && !v.getLsbD 1, cmdOvf := s.cmdOvf && !v.getLsbD 2 }

/-- A write of CMD: submits a command while idle, is dropped and sets CMDOVF while busy (10_state.md
R34, 60_exceptions.md R208). -/
def writeCmd (v : Word) (s : State) : State :=
  if s.busy then { s with cmdOvf := true } else acceptCommand v s

/-- A write of RAW_HI (10_state.md R49). DESIGN CHOICE (log 26): a gap word the host wrote reads back as
written, though R88 of 20_memory.md leaves a gap word unspecified on read. -/
def writeRawHi (v : Word) (s : State) : State :=
  match rawTarget s with
  | none => s
  | some (l, j, w) =>
    { s with
      arena := memWriteBytes s.arena (imageBase l j + 8 * w) (wordBytes (joinHalves v s.rawHold))
      rawIdx := s.rawIdx + 1
      regs := s.regs.set j none }

/-- A write of a named register (10_state.md R28 to R51, 20_memory.md R76). -/
def writeReg (r : WinReg) (v : Word) (s : State) : State :=
  match r with
  | .ctrl => writeCtrl v s
  | .status => writeStatus v s
  | .cmd => writeCmd v s
  | .cfgB => { s with cfgB := v }
  | .cfgSize => { s with cfgSize := v &&& cfgSizeMask }
  | .arg => { s with arg := v }
  | .maxErrLo => if s.busy then s else { s with maxErr := joinHalves (hiHalf s.maxErr) v }
  | .maxErrHi => if s.busy then s else { s with maxErr := joinHalves v (loHalf s.maxErr) }
  | .threshLo => { s with thresh := joinHalves (hiHalf s.thresh) v }
  | .threshHi => { s with thresh := joinHalves v (loHalf s.thresh) }
  | .digIdx => { s with digIdx := v.setWidth 23 }
  | .rawSel => { s with rawSel := v.setWidth 8 }
  | .rawIdx => { s with rawIdx := v.setWidth 25 }
  | .rawLo => { s with rawHold := v }
  | .rawHi => writeRawHi v s
  | .id => s
  | .caps => s
  | .actNio => s
  | .errLo => s
  | .errHi => s
  | .fpLo => s
  | .fpHi => s
  | .valid => s
  | .digData => s
  | .rawWords => s
  | .actB => s
  | .actSize => s

/-- An access the block performs: 32 bits at a multiple of 4 (20_memory.md R68). -/
def accessAligned (off : Nat) (width : AccessWidth) : Bool := width == .w32 && off % 4 == 0

/-- A read at an offset of the window (20_memory.md R68, R71). -/
def readOffset (off : Nat) (width : AccessWidth) (s : State) : BusAnswer × State :=
  if accessAligned off width then
    match regAtOffset off with
    | none => (.data 0, s)
    | some r => (.data (readReg r s).1, (readReg r s).2)
  else (.busError, s)

/-- A write at an offset of the window; a 32-bit access carries the low 32 bits (20_memory.md R68, R71). -/
def writeOffset (off : Nat) (width : AccessWidth) (v : DWord) (s : State) : BusAnswer × State :=
  if accessAligned off width then
    match regAtOffset off with
    | none => (.done, s)
    | some r => (.done, writeReg r (loHalf v) s)
  else (.busError, s)

/-- The offset of a physical address in the window (20_memory.md R67). DESIGN CHOICE (log 35): an access is
placed by its first byte, so one that begins below the window is not decoded even if it reaches in. -/
def windowOffset (addr : Nat) : Option Nat :=
  if Config.base ≤ addr ∧ addr < Config.base + 256 then some (addr - Config.base) else none

/-- The block's answer to a read at a physical address (60_exceptions.md R209, 70_reset_and_hazards.md R219). -/
def busRead (addr : Nat) (width : AccessWidth) (s : State) : BusAnswer × State :=
  match windowOffset addr with
  | none => (.notDecoded, s)
  | some off => if s.resetIn then (.noAnswer, s) else readOffset off width s

/-- The block's answer to a write at a physical address (60_exceptions.md R209, 70_reset_and_hazards.md R219). -/
def busWrite (addr : Nat) (width : AccessWidth) (v : DWord) (s : State) : BusAnswer × State :=
  match windowOffset addr with
  | none => (.notDecoded, s)
  | some off => if s.resetIn then (.noAnswer, s) else writeOffset off width v s

/-- An answer given to the host. -/
def giveAnswer (r : BusAnswer × State) : State := { r.2 with answers := r.1 :: r.2.answers }

/-- One thing the world does (20_memory.md R73, R74; 70_reset_and_hazards.md R219). -/
def runEvent (e : HostEvent) (s : State) : State :=
  match e with
  | .read addr width => giveAnswer (busRead addr width s)
  | .write addr width v => giveAnswer (busWrite addr width v s)
  | .resetInput asserted => setResetInput asserted s
  | .quiet => s

/-- The world's next action, if it has one; otherwise the state is kept (20_memory.md R74, 60_exceptions.md R218). -/
def runInput (s : State) : State :=
  match s.inputs with
  | [] => s
  | e :: es => runEvent e { s with inputs := es }

end Sys2Proof.Machine
end

