-- ==== Sys2Proof/Machine/Step.lean ====
section
/-!
DEFINITION. One step of GFSQ.
-/

namespace Sys2Proof.Machine

/-- The sequencer's completion step: CMD_LAT is decoded and its command run; an illegal word completes
with ILLEGAL (44_commands.md R187, 30_encoding.md R100, R101). -/
def runCommand (s : State) : Host.Outcome State Fault Refusal :=
  match decode s.cmdLat with
  | .ok i => exec i s
  | .error _ => .next (runIllegal s)

/-- One step: a running command whose time has come completes; otherwise the world does its next
action, and a running command comes one step nearer its completion (44_commands.md R188; 20_memory.md
R73, R75). -/
def step (s : State) : Host.Outcome State Fault Refusal :=
  if s.busy && s.remaining == 0 then runCommand s
  else .next (runInput { s with remaining := s.remaining - 1 })

/-- The state with the command word `w` (its low `nbits` bits; the rest 0) accepted and its completion
due: the latching of 44_commands.md R187 and nothing else, so that the very next step runs it. -/
def State.withFetchWord (s : State) (nbits w : Nat) : State :=
  { latchCommand (BitVec.ofNat 32 (w % 2 ^ nbits)) s with remaining := 0 }

end Sys2Proof.Machine
end

