-- ==== Sys2Proof/Machine/HostAsm.lean ====
section
/-!
DEFINITION. The host assembly of 30_encoding.md R103 to R105 as the window accesses it stands for, and
the words of the host's test loop (44_commands.md R201). Labels, branches and host variables run on
the host and are not in the model (log 31).
-/

namespace Sys2Proof.Machine

/-- The base forms that access the window (30_encoding.md R103). -/
inductive HostForm where
  /-- `wr OFF, v` -/
  | wr (off : Nat) (v : Word)
  /-- `rd OFF -> x` -/
  | rd (off : Nat)
  /-- `wait`: reads STATUS until BUSY = 0; the host repeats the read -/
  | wait
  deriving DecidableEq, Repr

/-- `MemWrite(GFSQ_BASE + OFF, 4, v)` (00_scope.md R22). -/
def memWrite4 (off : Nat) (v : Word) : HostEvent := .write (Config.base + off) .w32 (v.setWidth 64)

/-- `MemRead(GFSQ_BASE + OFF, 4)` (00_scope.md R22). -/
def memRead4 (off : Nat) : HostEvent := .read (Config.base + off) .w32

/-- The access a base form makes; `wait` makes one read of STATUS each time it looks (30_encoding.md R103). -/
def formEvent : HostForm → HostEvent
  | .wr off v => memWrite4 off v
  | .rd off => memRead4 off
  | .wait => memRead4 (offsetOf .status)

/-- A command mnemonic: `wr CMD, word` and `wait` (30_encoding.md R104). -/
def commandForms (i : Instr) : List HostForm := [.wr (offsetOf .cmd) (encode i), .wait]

/-- The pseudo-instructions (30_encoding.md R105). -/
inductive Pseudo where
  | cfg (b log2n t nregs : Nat) (chk : Bool)
  | seti (a : Int)
  | sq
  | sqd
  | ack
  | rdigits (n : Nat)
  | rfp
  | chkOk
  deriving DecidableEq, Repr

/-- CFG_SIZE's value: LOG2N | (T << 8) | (NUM_REGS << 16) | (CHECK_ERROR << 24) (30_encoding.md R105). -/
def cfgSizeValue (log2n t nregs : Nat) (chk : Bool) : Word :=
  BitVec.ofNat 32 log2n ||| (BitVec.ofNat 32 t <<< 8) ||| (BitVec.ofNat 32 nregs <<< 16) |||
    (BitVec.ofNat 32 chk.toNat <<< 24)

/-- The expansions of 30_encoding.md R105. -/
def expandPseudo : Pseudo → List HostForm
  | .cfg b log2n t nregs chk =>
    [.wr (offsetOf .cfgB) (BitVec.ofNat 32 b), .wr (offsetOf .cfgSize) (cfgSizeValue log2n t nregs chk)] ++
      commandForms .configure
  | .seti a => .wr (offsetOf .arg) (BitVec.ofInt 32 a) :: commandForms .set
  | .sq => commandForms (.squareDup false)
  | .sqd => commandForms (.squareDup true)
  | .ack => [.wr (offsetOf .status) 0x00000006]
  | .rdigits n => .wr (offsetOf .digIdx) 0 :: List.replicate n (.rd (offsetOf .digData))
  | .rfp => [.rd (offsetOf .fpLo), .rd (offsetOf .fpHi)]
  | .chkOk => [.rd (offsetOf .status)]

/-- The bits of an exponent below bit `k`, most significant first. -/
def exponentBits (e : Nat) : Nat → List Bool
  | 0 => []
  | k + 1 => e.testBit k :: exponentBits e k

/-- The commands of the host's test loop for the exponent e: one SQUARE_DUP per bit, most significant
bit first (44_commands.md R201). -/
def testLoop (e : Nat) : List Instr := (exponentBits e e.size).map .squareDup

/-- One command of the test loop with its open parameters: the meaning of SQUARE_DUP. The loop holds no
other command (44_commands.md R193, R201). -/
def runLoopCommand (d : Draws) (i : Instr) (s : State) : State :=
  match i with
  | .squareDup dup => squareDupWith d dup s
  | .nop => s
  | .configure => s
  | .set => s
  | .copy _ _ => s
  | .initMult _ => s
  | .mul => s
  | .getInt => s
  | .isOne => s
  | .validate _ => s

end Sys2Proof.Machine
end

