-- ==== Sys2Proof/Safety.lean ====
section
/-!
DEFINITION. What the statements are said with: what stays unchanged (frames), the checks of a command
in their order, the states a run stays in (invariants), and exact arithmetic.
-/

namespace Sys2Proof.Machine

/-! ### Frames -/

/-- A command ended with this code (60_exceptions.md R206); the model's counter of draws moved on. -/
structure EndedWith (code : ErrCode) (s t : State) : Prop where
  errCode : t.errCode = code
  busy : t.busy = false
  done : t.done = true
  draw : t.draw = s.draw + 1

/-- What no command writes at its completion: what the host writes, its latches, and what is outside
the block (44_commands.md R187, R200). -/
structure HostSideKept (s t : State) : Prop where
  ie : t.ie = s.ie
  cmdOvf : t.cmdOvf = s.cmdOvf
  cmdLat : t.cmdLat = s.cmdLat
  cfgB : t.cfgB = s.cfgB
  cfgSize : t.cfgSize = s.cfgSize
  arg : t.arg = s.arg
  thresh : t.thresh = s.thresh
  digIdx : t.digIdx = s.digIdx
  rawSel : t.rawSel = s.rawSel
  rawIdx : t.rawIdx = s.rawIdx
  rawLatch : t.rawLatch = s.rawLatch
  rawHold : t.rawHold = s.rawHold
  cfgLatB : t.cfgLatB = s.cfgLatB
  cfgLatSize : t.cfgLatSize = s.cfgLatSize
  argLat : t.argLat = s.argLat
  threshLat : t.threshLat = s.threshLat
  resetIn : t.resetIn = s.resetIn
  remaining : t.remaining = s.remaining
  inputs : t.inputs = s.inputs
  answers : t.answers = s.answers

/-- The error metric and its flags are unchanged (10_state.md R39, R40). -/
structure MetricKept (s t : State) : Prop where
  err : t.err = s.err
  maxErr : t.maxErr = s.maxErr
  pwarn : t.pwarn = s.pwarn
  unrec : t.unrec = s.unrec

/-- The digit buffer and its flags are unchanged (10_state.md R57); that D keeps its words while DVALID is 0
too is the model's choice (log 36). -/
structure DigitsKept (s t : State) : Prop where
  digits : t.digits = s.digits
  dvalid : t.dvalid = s.dvalid
  m1 : t.m1 = s.m1

/-- What IS_ONE reports is unchanged (44_commands.md R198). -/
structure VerdictKept (s t : State) : Prop where
  one : t.one = s.one
  fp : t.fp = s.fp

/-- The hidden state of the datapath is unchanged (10_state.md R61, R62, R64); for the carry slots and the
error accumulators, whose contents between commands the spec leaves open, that is the model's choice
(log 36). -/
structure DatapathKept (s t : State) : Prop where
  sbHi : t.sbHi = s.sbHi
  sbLo : t.sbLo = s.sbLo
  carry : t.carry = s.carry
  errAcc : t.errAcc = s.errAcc

/-- Every residue register but `j` is unchanged (10_state.md R52). -/
def RegsKeptBut (j : RegId) (s t : State) : Prop := ∀ k : RegId, k ≠ j → t.regs[k] = s.regs[k]

/-- Every byte of the arena reads as before. -/
def BytesKept (s t : State) : Prop := ∀ a, arenaByte t a = arenaByte s a

/-- Every byte of the arena outside `len` bytes from `lo` on reads as before. -/
def BytesKeptOutside (lo len : Nat) (s t : State) : Prop :=
  ∀ a, a < lo ∨ lo + len ≤ a → arenaByte t a = arenaByte s a

/-- Every byte of the arena outside `len` bytes from `lo` on, and outside the scratch image, whose contents
after a command are any value (10_state.md R65), reads as before. -/
def BytesKeptBut (c : ActiveCfg) (lo len : Nat) (s t : State) : Prop :=
  ∀ a, a < lo ∨ lo + len ≤ a →
    a < scratchBase (cfgL c) (cfgR c) ∨ scratchBase (cfgL c) (cfgR c) + imageBytesOf (cfgL c) ≤ a →
    arenaByte t a = arenaByte s a

/-- Register `j`'s image is these words. -/
def ImageIs (t : State) (l : Nat) (j : RegId) (f : Nat → DWord) : Prop :=
  ∀ w, w < rawWordsOf l → imgWord t l j w = f w

/-- Nothing a command writes is changed: the results the host reads hold the values from before
(20_memory.md R75). -/
structure ResultsKept (s t : State) : Prop where
  errCode : t.errCode = s.errCode
  engine : t.engine = s.engine
  regs : t.regs = s.regs
  metric : MetricKept s t
  digits : DigitsKept s t
  verdict : VerdictKept s t
  datapath : DatapathKept s t
  bytes : BytesKept s t

/-! ### The checks of a command (60_exceptions.md R204) -/

/-- A register field of the command names no register it accepts: [0, NUM_REGS] for COPY's DST and SRC and
for INIT_MULT's SRC, and 0xFF as well for VALIDATE's DST (30_encoding.md R97, 60_exceptions.md R204). -/
def fieldRefused (c : ActiveCfg) : Instr → Bool
  | .nop => false
  | .configure => false
  | .set => false
  | .squareDup _ => false
  | .copy dst src => decide (cfgR c < dst) || decide (cfgR c < src)
  | .initMult src => decide (cfgR c < src)
  | .mul => false
  | .getInt => false
  | .isOne => false
  | .validate dst => decide (cfgR c < dst) && dst != 0xFF

/-- The registers a command reads, by their bit of VALID, in the order r_0, r_SRC, r_m (10_state.md R43,
60_exceptions.md R204). -/
def readsOf : Instr → List Nat
  | .nop => []
  | .configure => []
  | .set => []
  | .squareDup _ => [0]
  | .copy _ src => [src]
  | .initMult src => [src]
  | .mul => [0, 31]
  | .getInt => [0]
  | .isOne => [0]
  | .validate _ => []

/-- A register that holds no value, by its bit of VALID. -/
def holdsNothing (s : State) (j : Nat) : Bool := (s.regs.toList.getD j none).isNone

/-- The checks of a residue command: STATE, then REG, then UNWRITTEN. -/
def residueError (i : Instr) (s : State) : Option ErrCode :=
  match s.engine with
  | .unconfigured => some .state
  | .configured c _ =>
    if fieldRefused c i then some .reg
    else if (readsOf i).any (holdsNothing s) then some .unwritten
    else none

/-- The first check of a decoded command that fails. -/
def commandError (i : Instr) (s : State) : Option ErrCode :=
  match i with
  | .nop => none
  | .configure => if configAccepted Config.sizes (latchedCfg s) then none else some .config
  | .set => residueError i s
  | .squareDup _ => residueError i s
  | .copy _ _ => residueError i s
  | .initMult _ => residueError i s
  | .mul => residueError i s
  | .getInt => residueError i s
  | .isOne => residueError i s
  | .validate _ => residueError i s

/-- The first check of the command in CMD_LAT that fails. -/
def firstError (s : State) : Option ErrCode :=
  match decode s.cmdLat with
  | .error _ => some .illegal
  | .ok i => commandError i s

/-! ### The window -/

/-- The reserved bits of a register (10_state.md R30 to R51, R71 of 20_memory.md); CTRL.SRST is not
among them. -/
def reservedMask : WinReg → Word
  | .caps => 0x00FFE0E0
  | .ctrl => 0xFFFFFFFC
  | .status => 0xFFFE0808
  | .cfgSize => ~~~cfgSizeMask
  | .actSize => ~~~cfgSizeMask
  | .digIdx => 0xFF800000
  | .rawSel => 0xFFFFFF00
  | .rawIdx => 0xFE000000
  | .id => 0
  | .cmd => 0
  | .cfgB => 0
  | .actNio => 0
  | .arg => 0
  | .errLo => 0
  | .errHi => 0
  | .maxErrLo => 0
  | .maxErrHi => 0
  | .threshLo => 0
  | .threshHi => 0
  | .fpLo => 0
  | .fpHi => 0
  | .valid => 0
  | .digData => 0
  | .rawLo => 0
  | .rawHi => 0
  | .rawWords => 0
  | .actB => 0

/-- A soft reset, as the host writes it (70_reset_and_hazards.md R220). -/
def isSoftReset : HostEvent → Bool
  | .write addr width v => addr == Config.base + offsetOf .ctrl && width == .w32 && v.getLsbD 1
  | .read _ _ => false
  | .resetInput _ => false
  | .quiet => false

/-- What stops a running command: a soft reset or the reset input (44_commands.md R188). -/
def stopsCommand (e : HostEvent) : Bool :=
  isSoftReset e || (match e with
    | .resetInput _ => true
    | .write _ _ _ => false
    | .read _ _ => false
    | .quiet => false)

/-- Every piece of the block's state has its reset value (70_reset_and_hazards.md R221); the world's
list, the answers, the record of images, the level of the reset input and the counters of the model are
left out. -/
def AtReset (t : State) : Prop :=
  { t with inputs := [], answers := [], resetIn := false, imageLog := [], draw := 0, epoch := 0 } =
    State.reset

/-! ### The states a run stays in -/

/-- The bytes of the arena that images take: what commands and raw writes write lies below
(20_memory.md R84). -/
def arenaUsed (c : ActiveCfg) : Nat := w122iBase (cfgL c) (cfgR c)

/-- The arena has its canonical form, and only bytes of the configuration's images are listed. -/
structure MemoryOk (s : State) : Prop where
  canonical : s.arena.wf
  inside : ∀ x ∈ s.arena, ∃ c p, s.engine = .configured c p ∧ x.1 < arenaUsed c

/-- The active configuration passed CONFIGURE's tests, the base parameters are its own, CONSTRUCTED
means that r_0 holds no value, and D holds N digits when it holds a decode (10_state.md R33, R51, R57,
R64). -/
structure EngineOk (s : State) : Prop where
  accepted : ∀ c p, s.engine = .configured c p → configAccepted Config.sizes c = true
  baseParams : ∀ c p, s.engine = .configured c p →
    s.sbHi = sqrtHi (cfgBase c) ∧ s.sbLo = sqrtLo (cfgBase c)
  constructed : ∀ c, s.engine = .configured c .constructed → s.regs[(0 : RegId)] = none
  decoded : s.dvalid = true → ∃ c p, s.engine = .configured c p ∧ s.digits.length = nLen (cfgL c)

/-- Only the registers of the configuration hold values, and each value is a residue of Z_n
(10_state.md R43, R52). -/
def RegsOk (s : State) : Prop :=
  ∀ (j : RegId) (v : Nat), s.regs[j] = some v →
    ∃ c p, s.engine = .configured c p ∧ v < cfgMod c ∧ (j = regM ∨ j.val ≤ cfgR c)

/-- The reserved bits of CFG_SIZE and of its latch are 0, a running command has cleared DONE, ERR lies
in [+0, 0.5], and nothing runs while the reset input is asserted (10_state.md R32, R36; 42_passes.md
R175; 70_reset_and_hazards.md R219). -/
structure StatusOk (s : State) : Prop where
  cfgSize : s.cfgSize &&& cfgSizeMask = s.cfgSize
  cfgLatSize : s.cfgLatSize &&& cfgSizeMask = s.cfgLatSize
  busyDone : s.busy = true → s.done = false
  errRange : s.err.toNat < errPatterns
  heldIdle : s.resetIn = true → s.busy = false

/-- The invariant of the machine. -/
structure Inv (s : State) : Prop where
  memory : MemoryOk s
  engine : EngineOk s
  regs : RegsOk s
  status : StatusOk s

/-- The image of every register that holds a value is on record under the active configuration, with that
value (10_state.md R53, R54). -/
def Recorded (s : State) : Prop :=
  ∀ (j : RegId) (v : Nat), s.regs[j] = some v → ∀ c p, s.engine = .configured c p →
    ∃ r ∈ s.imageLog, r.cfg = c ∧ r.full = (j == regM) ∧
      r.samples = sampleWords (cfgL c) (imgWord s (cfgL c) j) ∧ r.value = v

/-! ### Exact arithmetic -/

/-- What the stored constants are in exact arithmetic: c = cos α and t = tan α, so c²·(1 + t²) = 1, and
2·(√½)² = 1 (41_butterflies.md R134, R136). -/
structure ExactRoots {K : Type} [CommRing K] (k : Roots K) : Prop where
  unit : ∀ s j, 1 ≤ s → j % 2 = 0 → (k.tw s j).c ^ 2 * (1 + (k.tw s j).t ^ 2) = 1
  half : 2 * k.sqrth ^ 2 = 1

/-- The root of node j of level s in the tree, with the two top levels' roots written out
(41_butterflies.md R126, R127, R139). -/
def treeRoot {K : Type} [CommRing K] (k : Roots K) (s j : Nat) : Cx K :=
  match s with
  | 0 => ⟨0, 1⟩
  | 1 => if j % 2 = 0 then ⟨k.sqrth, k.sqrth⟩ else ⟨-k.sqrth, k.sqrth⟩
  | s + 2 => deltaOf (exactArith K) k (s + 2) j

/-- The first `m` forward levels, one after the other (41_butterflies.md R127, R131). -/
def forwardLevels {K : Type} [CommRing K] (root : Nat → Nat → Cx K) (n : Nat) :
    (m : Nat) → (Nat → Cx K) → Nat → Cx K
  | 0, x => x
  | m + 1, x => forwardLevelAt (exactArith K) (root m) n m (forwardLevels root n m x)

/-- Forward levels, in the order of the list (41_butterflies.md R127, R131). -/
def forwardThrough {K : Type} [CommRing K] (root : Nat → Nat → Cx K) (n : Nat) (levels : List Nat)
    (x : Nat → Cx K) : Nat → Cx K :=
  levels.foldl (fun y s => forwardLevelAt (exactArith K) (root s) n s y) x

/-- Inverse levels, in the order of the list (41_butterflies.md R128, R131). -/
def inverseThrough {K : Type} [CommRing K] (root : Nat → Nat → Cx K) (n : Nat) (levels : List Nat)
    (x : Nat → Cx K) : Nat → Cx K :=
  levels.foldl (fun y s => inverseLevelAt (exactArith K) (root s) n s y) x

/-- The inner levels L_S … L − 1 (41_butterflies.md R131). -/
def innerLevelList (l : Nat) : List Nat := (List.range (l - lS l)).map fun i => lS l + i

/-- z^k in exact arithmetic. -/
def cxPow {K : Type} [CommRing K] (z : Cx K) : Nat → Cx K
  | 0 => ⟨1, 0⟩
  | k + 1 => cxMul (exactArith K) z (cxPow z k)

/-- Σ u_k·z^k over k < m in exact arithmetic (41_butterflies.md R129). -/
def cxEval {K : Type} [CommRing K] (u : Nat → Cx K) (z : Cx K) : Nat → Cx K
  | 0 => ⟨0, 0⟩
  | m + 1 => cxAdd (exactArith K) (cxEval u z m) (cxMul (exactArith K) (u m) (cxPow z m))

/-- A tree of roots for x^(2^m) + 1: the root of the top node squares to −1, and the roots of a node's
two children square to its root and to its negative (41_butterflies.md R126). -/
structure RootTree {K : Type} [CommRing K] (root : Nat → Nat → Cx K) (m : Nat) : Prop where
  top : cxMul (exactArith K) (root 0 0) (root 0 0) = ⟨-1, 0⟩
  left : ∀ s j, s + 1 < m → cxMul (exactArith K) (root (s + 1) (2 * j)) (root (s + 1) (2 * j)) = root s j
  right : ∀ s j, s + 1 < m →
    cxMul (exactArith K) (root (s + 1) (2 * j + 1)) (root (s + 1) (2 * j + 1)) =
      cxSub (exactArith K) ⟨0, 0⟩ (root s j)

/-- The root ρ_j of a leaf: the square root of its parent for an even leaf, its negative for an odd one
(41_butterflies.md R126, R129). -/
def leafRoot {K : Type} [CommRing K] (root : Nat → Nat → Cx K) (m j : Nat) : Cx K :=
  if j % 2 = 0 then root (m - 1) (j / 2) else cxSub (exactArith K) ⟨0, 0⟩ (root (m - 1) (j / 2))

end Sys2Proof.Machine
end

