-- ==== Sys2Proof/Certificates/Slice0/Obligations.lean ====
section
/-!
DEFINITION. The statements about GFSQ, from the numbered rules of the spec.
-/

section Encoding

open Sys2Proof Sys2Proof.Machine

/-- Decoding the word of a command that fits a command word gives the command back, with every operand
(30_encoding.md R96, R99, R100). -/
def Obligations.DecodeOfEncode : Prop :=
  ∀ i : Instr, i.wellFormed = true → decode (encode i) = .ok i

/-- A command has one word: a word that decodes to a command is the command's word, and the command fits
(30_encoding.md R99, R100). -/
def Obligations.EncodeOfDecode : Prop :=
  ∀ (w : Word) (i : Instr), decode w = .ok i → i.wellFormed = true ∧ encode i = w

/-- A word decodes to a row's command exactly when it selects the row, and it is illegal exactly when it
selects no row (30_encoding.md R99, R100). -/
def Obligations.RowsDecideDecoding : Prop :=
  (∀ (r : OpRow) (w : Word), r ∈ opcodeMap →
    (r.selects w = true ↔ ∃ i, decode w = .ok i ∧ mnemonicOf i = r.mnemonic)) ∧
  (∀ w : Word, (∃ e, decode w = .error e) ↔ ∀ r ∈ opcodeMap, r.selects w = false)

/-- A few words written out from the encoding: `square_dup 1`, `copy r1, r0`, `init_mult r2`,
`validate rm` (30_encoding.md R104). -/
def Obligations.SampleWordsDecode : Prop :=
  decode 0x01000003 = .ok (.squareDup true) ∧ decode 0x00000104 = .ok (.copy 1 0) ∧
    decode 0x00020005 = .ok (.initMult 2) ∧ decode 0x0000FF09 = .ok (.validate 255)

end Encoding

section Steps

open Sys2Proof Sys2Proof.Machine

/-- When a command's completion is due and CMD_LAT decodes to it, the step is that command's meaning, with
nothing around it (44_commands.md R187). Every other step performs the world's next action and brings a
running command one step nearer its completion (20_memory.md R74); that the two go in this order is the
model's choice (log 8). -/
def Obligations.StepRunsDecoded : Prop :=
  (∀ (s : State) (i : Instr), s.busy = true → s.remaining = 0 → decode s.cmdLat = .ok i →
    step s = exec i s) ∧
  (∀ s : State, s.busy = false ∨ s.remaining ≠ 0 →
    step s = .next (match s.inputs with
      | [] => { s with remaining := s.remaining - 1 }
      | e :: es => runEvent e { s with remaining := s.remaining - 1, inputs := es }))

/-- An illegal word is accepted like any command and completes with ILLEGAL, changing nothing else
(30_encoding.md R101). -/
def Obligations.IllegalWordCompletes : Prop :=
  (∀ w : Word, (∃ e, decode w = .error e) ↔
    9 < opField w ∨ (opField w ≤ 9 ∧ ∀ r ∈ opcodeMap, r.selects w = false)) ∧
  (∀ (s : State) (w : Word), s.busy = false → (∃ e, decode w = .error e) →
    (writeReg .cmd w s).busy = true ∧ (writeReg .cmd w s).done = false ∧ (writeReg .cmd w s).cmdLat = w) ∧
  (∀ s : State, s.busy = true → s.remaining = 0 → (∃ e, decode s.cmdLat = .error e) →
    step s = .next { s with errCode := .illegal, busy := false, done := true, draw := s.draw + 1 })

/-- A running command completes after the steps left to it, whatever the host does meanwhile, unless it is
reset (44_commands.md R188). -/
def Obligations.CommandCompletes : Prop :=
  ∀ s : State, s.busy = true → (∀ e ∈ s.inputs.take s.remaining, stopsCommand e = false) →
    ∃ t, Host.Core.run Sys2Proof.core (s.remaining + 1) s = .next t ∧ t.busy = false ∧ t.done = true

/-- Between acceptance and completion no step changes a result the host reads: it returns the values from
before the command, and the command's latches keep what it was accepted with (20_memory.md R75,
10_state.md R59). That the hidden slots and accumulators are kept as well is log 36. -/
def Obligations.NothingSeenBeforeCompletion : Prop :=
  ∀ s : State, s.busy = true → s.remaining ≠ 0 →
    (∀ e, s.inputs.head? = some e → stopsCommand e = false) →
    ∃ t, step s = .next t ∧ ResultsKept s t ∧ t.busy = true ∧ t.cmdLat = s.cmdLat ∧
      t.cfgLatB = s.cfgLatB ∧ t.cfgLatSize = s.cfgLatSize ∧ t.argLat = s.argLat ∧
      t.threshLat = s.threshLat

end Steps

section Commands

open Sys2Proof Sys2Proof.Machine

/-- NOP completes with OK in every state and changes nothing else (44_commands.md R190). -/
def Obligations.NopCompletes : Prop :=
  ∀ s : State, exec .nop s =
    .next { s with errCode := .ok, busy := false, done := true, draw := s.draw + 1 }

/-- CONFIGURE: if its latched operands pass every test, the configuration becomes active and every register
loses its value; if not, it completes with CONFIG and changes nothing else (44_commands.md R191). The first
clause writes the tests out, for an instance of any sizes. That the arena lists no byte afterwards is the
model's choice (log 6), and so is that the digit buffer, the carry slots and the error accumulators keep what
they held (log 36). -/
def Obligations.ConfigureEffect : Prop :=
  (∀ (p : Sizes) (c : ActiveCfg), configAccepted p c = true ↔
    (c.b.toNat % 2 = 0 ∧ 2 ≤ c.b.toNat ∧ 10 ≤ c.log2n.toNat ∧ c.log2n.toNat ≤ 23) ∧
    c.b.toNat ≤ p.bMax c.log2n.toNat ∧
    (1 ≤ c.t.toNat ∧ c.t.toNat ≤ p.tMax ∧ c.t.toNat ≤ nio c.log2n.toNat / 8) ∧
    c.numRegs.toNat ≤ p.nregsMax ∧
    arenaReq c.log2n.toNat c.t.toNat c.numRegs.toNat ≤ p.arenaBytes) ∧
  (∀ s : State, ∃ t, exec .configure s = .next t ∧
    (latchedCfg s = ⟨s.cfgLatB, s.cfgLatSize.extractLsb' 0 5, s.cfgLatSize.extractLsb' 8 8,
      s.cfgLatSize.extractLsb' 16 8, s.cfgLatSize.getLsbD 24⟩) ∧
    (if configAccepted Config.sizes (latchedCfg s) = true then
      EndedWith .ok s t ∧ t.engine = .configured (latchedCfg s) .constructed ∧
        (∀ j : RegId, t.regs[j] = none) ∧ t.sbHi = sqrtHi s.cfgLatB.toNat ∧
        t.sbLo = sqrtLo s.cfgLatB.toNat ∧ t.err = 0 ∧ t.maxErr = 0 ∧ t.fp = 0 ∧ t.pwarn = false ∧
        t.unrec = false ∧ t.one = false ∧ t.m1 = false ∧ t.dvalid = false ∧ HostSideKept s t ∧
        t.digits = s.digits ∧ t.carry = s.carry ∧ t.errAcc = s.errAcc ∧ t.arena = []
    else t = { s with errCode := .config, busy := false, done := true, draw := s.draw + 1 }))

/-- CONFIGURE on an instance of any sizes (44_commands.md R191): if its latched operands pass the tests, the
new configuration is active, every register holds no value, the base parameters are b's, and the metric, the
fingerprint and the result flags are cleared; if not, it completes with CONFIG and changes nothing else.
`exec` runs it with the sizes of this block, which no run can see. -/
def Obligations.ConfigureSucceeds : Prop :=
  (∀ s : State, exec .configure s = .next (configureWith Config.sizes s)) ∧
  (∀ (p : Sizes) (s : State), configAccepted p (latchedCfg s) = true →
    EndedWith .ok s (configureWith p s) ∧
    (configureWith p s).engine = .configured (latchedCfg s) .constructed ∧
    (∀ j : RegId, (configureWith p s).regs[j] = none) ∧
    (configureWith p s).sbHi = sqrtHi s.cfgLatB.toNat ∧ (configureWith p s).sbLo = sqrtLo s.cfgLatB.toNat ∧
    (configureWith p s).err = 0 ∧ (configureWith p s).maxErr = 0 ∧ (configureWith p s).fp = 0 ∧
    (configureWith p s).pwarn = false ∧ (configureWith p s).unrec = false ∧
    (configureWith p s).one = false ∧ (configureWith p s).m1 = false ∧
    (configureWith p s).dvalid = false ∧ HostSideKept s (configureWith p s)) ∧
  (∀ (p : Sizes) (s : State), configAccepted p (latchedCfg s) = false →
    configureWith p s = { s with errCode := .config, busy := false, done := true, draw := s.draw + 1 })

/-- SET while configured: r_0 takes a mod n and the image of the balanced expansion of a, ESTATE becomes
INITIALIZED, and nothing else changes (44_commands.md R192) but the scratch image, whose contents after a
command are any value (10_state.md R65). That hidden contents the spec leaves open are kept is log 36. -/
def Obligations.SetEffect : Prop :=
  ∀ (s : State) (c : ActiveCfg) (p : Phase), s.engine = .configured c p →
    ∃ t, exec .set s = .next t ∧ EndedWith .ok s t ∧
      t.regs[(0 : RegId)] = some ((s.argLat.toInt % (cfgMod c : Int)).toNat) ∧
      t.engine = .configured c .initialized ∧
      ImageIs t (cfgL c) 0 (setImage (Config.draws s.draw) c s) ∧
      RegsKeptBut 0 s t ∧ HostSideKept s t ∧ MetricKept s t ∧ DigitsKept s t ∧ VerdictKept s t ∧
      DatapathKept s t ∧ BytesKeptBut c (imageBase (cfgL c) 0) (imageBytesOf (cfgL c)) s t

/-- SQUARE_DUP of a value v: r_0 takes g·v² mod n under EXACT and some residue otherwise, the metric and its
flags follow ERR, ESTATE becomes SPECTRAL, and nothing else changes (44_commands.md R193) but the datapath's
accumulators and slots and the scratch image (10_state.md R61, R62, R65). That the accumulators and slots
hold the squaring's values afterwards, and D its words while DVALID is 0, is the model's choice (log 36). -/
def Obligations.SquareDupEffect : Prop :=
  ∀ (s : State) (c : ActiveCfg) (p : Phase) (dup : Bool) (v : Nat),
    s.engine = .configured c p → s.regs[(0 : RegId)] = some v →
    ∃ t, exec (.squareDup dup) s = .next t ∧ EndedWith .ok s t ∧
      (∃ u, t.regs[(0 : RegId)] = some u ∧ u < cfgMod c ∧
        (Config.exact s.draw = true → u = (if dup then 2 else 1) * v ^ 2 % cfgMod c)) ∧
      t.engine = .configured c .spectral ∧
      t.err = (squareOut (Config.draws s.draw) c s (if dup then 2 else 1)
        (pass1Square (cfgL c) (cfgT c) (imageSamples s (cfgL c) 0))).err ∧
      ImageIs t (cfgL c) 0 (squareOut (Config.draws s.draw) c s (if dup then 2 else 1)
        (pass1Square (cfgL c) (cfgT c) (imageSamples s (cfgL c) 0))).word ∧
      t.carry = (squareOut (Config.draws s.draw) c s (if dup then 2 else 1)
        (pass1Square (cfgL c) (cfgT c) (imageSamples s (cfgL c) 0))).slots ∧
      t.errAcc = (squareOut (Config.draws s.draw) c s (if dup then 2 else 1)
        (pass1Square (cfgL c) (cfgT c) (imageSamples s (cfgL c) 0))).errAcc ∧
      t.err = combineErr t.errAcc ∧
      t.maxErr = (if f64Lt s.maxErr t.err then t.err else s.maxErr) ∧
      t.pwarn = f64Lt s.threshLat t.err ∧ t.unrec = f64Le f64Half t.err ∧
      (c.checkError = false → t.err = 0) ∧
      RegsKeptBut 0 s t ∧ HostSideKept s t ∧ DigitsKept s t ∧ VerdictKept s t ∧
      t.sbHi = s.sbHi ∧ t.sbLo = s.sbLo ∧
      BytesKeptBut c (imageBase (cfgL c) 0) (imageBytesOf (cfgL c)) s t

/-- MUL of r_0 = v by r_m = u: r_0 takes v·u mod n under EXACT and some residue otherwise, with the metric,
the flags and the frame of SQUARE_DUP, its choices included (44_commands.md R196; log 36). -/
def Obligations.MulEffect : Prop :=
  ∀ (s : State) (c : ActiveCfg) (p : Phase) (v u : Nat),
    s.engine = .configured c p → s.regs[(0 : RegId)] = some v → s.regs[regM] = some u →
    ∃ t, exec .mul s = .next t ∧ EndedWith .ok s t ∧
      (∃ x, t.regs[(0 : RegId)] = some x ∧ x < cfgMod c ∧
        (Config.exact s.draw = true → x = v * u % cfgMod c)) ∧
      t.engine = .configured c .spectral ∧
      t.err = (squareOut (Config.draws s.draw) c s 1
        (pass1Mul (cfgL c) (cfgT c) (imageSamples s (cfgL c) 0) (imageSamples s (cfgL c) regM))).err ∧
      ImageIs t (cfgL c) 0 (squareOut (Config.draws s.draw) c s 1
        (pass1Mul (cfgL c) (cfgT c) (imageSamples s (cfgL c) 0) (imageSamples s (cfgL c) regM))).word ∧
      t.carry = (squareOut (Config.draws s.draw) c s 1
        (pass1Mul (cfgL c) (cfgT c) (imageSamples s (cfgL c) 0) (imageSamples s (cfgL c) regM))).slots ∧
      t.errAcc = (squareOut (Config.draws s.draw) c s 1
        (pass1Mul (cfgL c) (cfgT c) (imageSamples s (cfgL c) 0) (imageSamples s (cfgL c) regM))).errAcc ∧
      t.err = combineErr t.errAcc ∧
      t.maxErr = (if f64Lt s.maxErr t.err then t.err else s.maxErr) ∧
      t.pwarn = f64Lt s.threshLat t.err ∧ t.unrec = f64Le f64Half t.err ∧
      (c.checkError = false → t.err = 0) ∧
      RegsKeptBut 0 s t ∧ HostSideKept s t ∧ DigitsKept s t ∧ VerdictKept s t ∧
      t.sbHi = s.sbHi ∧ t.sbLo = s.sbLo ∧
      BytesKeptBut c (imageBase (cfgL c) 0) (imageBytesOf (cfgL c)) s t

/-- COPY of r_SRC to r_DST, both registers of the configuration: the value and every word of the image, with
ESTATE SPECTRAL when DST is 0 (44_commands.md R194). The source and the destination may be the same. That
hidden contents the spec leaves open are kept is log 36. -/
def Obligations.CopyEffect : Prop :=
  ∀ (s : State) (c : ActiveCfg) (p : Phase) (d r : RegId) (v : Nat),
    s.engine = .configured c p → d.val ≤ cfgR c → r.val ≤ cfgR c → d.val ≤ 30 → r.val ≤ 30 →
    s.regs[r] = some v →
    ∃ t, exec (.copy d.val r.val) s = .next t ∧ EndedWith .ok s t ∧
      t.regs[d] = some v ∧ ImageIs t (cfgL c) d (imgWord s (cfgL c) r) ∧
      t.engine = .configured c (if d = 0 then .spectral else p) ∧
      RegsKeptBut d s t ∧ HostSideKept s t ∧ MetricKept s t ∧ DigitsKept s t ∧ VerdictKept s t ∧
      DatapathKept s t ∧ BytesKeptBut c (imageBase (cfgL c) d) (imageBytesOf (cfgL c)) s t

/-- INIT_MULT of r_SRC: r_m takes its value, and the forward inner transform of its image on the reference
datapath; nothing else changes (44_commands.md R195) but the scratch image (10_state.md R65). That hidden
contents the spec leaves open are kept is log 36. -/
def Obligations.InitMultEffect : Prop :=
  ∀ (s : State) (c : ActiveCfg) (p : Phase) (r : RegId) (v : Nat),
    s.engine = .configured c p → r.val ≤ cfgR c → r.val ≤ 30 → s.regs[r] = some v →
    ∃ t, exec (.initMult r.val) s = .next t ∧ EndedWith .ok s t ∧
      t.regs[regM] = some v ∧
      ImageIs t (cfgL c) regM (writtenWord (Config.draws s.draw) (cfgL c)
        (innerImage (cfgL c) (imageSamples s (cfgL c) r))) ∧
      t.engine = s.engine ∧
      RegsKeptBut regM s t ∧ HostSideKept s t ∧ MetricKept s t ∧ DigitsKept s t ∧ VerdictKept s t ∧
      DatapathKept s t ∧ BytesKeptBut c (imageBase (cfgL c) regM) (imageBytesOf (cfgL c)) s t

/-- GET_INT: the digit buffer takes the canonical form of r_0's value under EXACT, and of some residue
otherwise, with the word 0xFFFFFFFF for −1; DVALID is set and M1 tells the special form; of the arena only
the scratch image changes (44_commands.md R197). That the hidden slots and accumulators are kept is log 36. -/
def Obligations.GetIntEffect : Prop :=
  ∀ (s : State) (c : ActiveCfg) (p : Phase) (v : Nat),
    s.engine = .configured c p → s.regs[(0 : RegId)] = some v → v < cfgMod c →
    ∃ t, exec .getInt s = .next t ∧ EndedWith .ok s t ∧
      (∃ u, u < cfgMod c ∧ (Config.exact s.draw = true → u = v) ∧
        t.digits = (canonOf (cfgBase c) (nLen (cfgL c)) u).digits.map digitWord ∧
        (u = cfgMod c - 1 → t.digits.head? = some 0xFFFFFFFF ∧ ∀ w ∈ t.digits.tail, w = 0) ∧
        (u ≠ cfgMod c - 1 →
          t.digits.map (fun w => (w.toNat : Int)) = (canonOf (cfgBase c) (nLen (cfgL c)) u).digits) ∧
        t.m1 = decide (u = cfgMod c - 1)) ∧
      t.dvalid = true ∧ t.engine = s.engine ∧ t.regs = s.regs ∧
      HostSideKept s t ∧ MetricKept s t ∧ VerdictKept s t ∧ DatapathKept s t ∧
      BytesKeptOutside (scratchBase (cfgL c) (cfgR c)) (imageBytesOf (cfgL c)) s t

/-- IS_ONE: as GET_INT, and ONE tells whether the residue is 1 and FP is the fingerprint of its canonical
digits (44_commands.md R198). That the hidden slots and accumulators are kept is log 36. -/
def Obligations.IsOneEffect : Prop :=
  ∀ (s : State) (c : ActiveCfg) (p : Phase) (v : Nat),
    s.engine = .configured c p → s.regs[(0 : RegId)] = some v → v < cfgMod c →
    ∃ t, exec .isOne s = .next t ∧ EndedWith .ok s t ∧
      (∃ u, u < cfgMod c ∧ (Config.exact s.draw = true → u = v) ∧
        t.digits = (canonOf (cfgBase c) (nLen (cfgL c)) u).digits.map digitWord ∧
        (u = cfgMod c - 1 → t.digits.head? = some 0xFFFFFFFF ∧ ∀ w ∈ t.digits.tail, w = 0) ∧
        (u ≠ cfgMod c - 1 →
          t.digits.map (fun w => (w.toNat : Int)) = (canonOf (cfgBase c) (nLen (cfgL c)) u).digits) ∧
        t.m1 = decide (u = cfgMod c - 1) ∧
        t.one = canonIsOne (canonOf (cfgBase c) (nLen (cfgL c)) u) ∧
        t.fp = fingerprint (canonOf (cfgBase c) (nLen (cfgL c)) u).digits) ∧
      t.dvalid = true ∧ t.engine = s.engine ∧ t.regs = s.regs ∧
      HostSideKept s t ∧ MetricKept s t ∧ DatapathKept s t ∧
      BytesKeptOutside (scratchBase (cfgL c) (cfgR c)) (imageBytesOf (cfgL c)) s t

/-- VALIDATE of a register of the configuration or of r_m: it becomes valid with some residue, under EXACT
with V(z) of the decode of its image, ESTATE becomes SPECTRAL when the register is r_0, and nothing else
changes but the scratch image the decode works in (44_commands.md R199, 10_state.md R65). EXACT implies that
the decode agrees with every image on record of the same words (log 12). That hidden contents the spec
leaves open are kept is log 36. -/
def Obligations.ValidateEffect : Prop :=
  ∀ (s : State) (c : ActiveCfg) (p : Phase) (dst : Nat) (j : RegId),
    s.engine = .configured c p →
    (dst = 0xFF ∧ j = regM) ∨ (dst = j.val ∧ j.val ≤ cfgR c ∧ j.val ≤ 30) →
    ∃ t, exec (.validate dst) s = .next t ∧ EndedWith .ok s t ∧
      (∃ v, t.regs[j] = some v ∧ v < cfgMod c) ∧
      (∀ v, Config.exact s.draw = true → decodeValue (Config.draws s.draw) c j s = some v →
        logAgrees s c (j == regM) (sampleWords (cfgL c) (imgWord s (cfgL c) j)) v = true →
        t.regs[j] = some v) ∧
      t.engine = .configured c (if j = 0 then .spectral else p) ∧
      RegsKeptBut j s t ∧ HostSideKept s t ∧ MetricKept s t ∧ DigitsKept s t ∧ VerdictKept s t ∧
      DatapathKept s t ∧ BytesKeptOutside (scratchBase (cfgL c) (cfgR c)) (imageBytesOf (cfgL c)) s t

/-- The restore round trip: a VALIDATE that is EXACT gives the register the residue that an image on record
with its sample words, of its kind and of the same configuration stands for (44_commands.md R199, 10_state.md
R54). No step takes an image off the record: not a soft reset, not the reset input, and not a CONFIGURE on an
instance of any sizes. The record is the model's, and so is that EXACT implies that the decode is defined and
agrees with every image on record of the same words (log 12). -/
def Obligations.RestoreGivesRecordedValue : Prop :=
  (∀ (d : Draws) (s : State) (c : ActiveCfg) (p : Phase) (dst : Nat) (j : RegId) (v : Nat) (r : ImageRecord),
    s.engine = .configured c p →
    (dst = 0xFF ∧ j = 31) ∨ (dst = j.val ∧ j.val ≤ cfgR c ∧ j.val ≤ 30) →
    r ∈ s.imageLog → r.cfg = c → r.full = (j == regM) →
    r.samples = sampleWords (cfgL c) (imgWord s (cfgL c) j) →
    d.exact = true → decodeValue d c j s = some v →
    logAgrees s c (j == regM) (sampleWords (cfgL c) (imgWord s (cfgL c) j)) v = true →
    (validateWith d dst s).regs[j] = some r.value) ∧
  (∀ (s t : State) (r : ImageRecord), r ∈ s.imageLog → step s = .next t → r ∈ t.imageLog) ∧
  (∀ (s : State) (v : Word) (b : Bool) (p : Sizes),
    (writeReg .ctrl v s).imageLog = s.imageLog ∧ (runEvent (.resetInput b) s).imageLog = s.imageLog ∧
    (configureWith p s).imageLog = s.imageLog)

/-- The checks of a command decide its code: the first that fails, in the order ILLEGAL, STATE, REG,
UNWRITTEN, CONFIG, ends it with its code, and a command none of whose checks fails completes with OK
(60_exceptions.md R204). REG is said by number: an index above NUM_REGS, but for VALIDATE's 0xFF (R97 of
30_encoding.md). The premise on NUM_REGS follows from the machine's invariant. -/
def Obligations.ChecksDecideCode : Prop :=
  ∀ s : State, (∀ c p, s.engine = .configured c p → c.numRegs.toNat ≤ 30) →
    s.busy = true → s.remaining = 0 →
    (∀ code, firstError s = some code → ∃ t, step s = .next t ∧ EndedWith code s t) ∧
    (firstError s = none → ∃ t, step s = .next t ∧ EndedWith .ok s t)

/-- A command that completes with an error changes ERRCODE, BUSY and DONE only (60_exceptions.md R205). The
counter of draws is the model's own. -/
def Obligations.ErrorsArePrecise : Prop :=
  ∀ (s t : State), s.busy = true → s.remaining = 0 → step s = .next t → t.errCode ≠ .ok →
    t = { s with errCode := t.errCode, busy := false, done := true, draw := s.draw + 1 }

/-- PWARN is ERR > THRESH_LAT: 0 for a NaN threshold, 1 for a negative one whatever ERR is, and for a zero of
either sign whether ERR is above 0 (60_exceptions.md R210). UNREC is set exactly when ERR is 0.5, ERR being in [+0, 0.5] (R211). A NaN in
MAXERR stays (10_state.md R40). -/
def Obligations.PrecisionFlagRules : Prop :=
  ∀ (err thresh : F64), err.toNat < errPatterns →
    (f64IsNaN thresh = true → pwarnOf err thresh = false) ∧
    (f64IsNaN thresh = false → thresh.msb = true → f64IsZero thresh = false → pwarnOf err thresh = true) ∧
    (thresh.msb = false → f64IsNaN thresh = false →
      pwarnOf err thresh = decide (thresh.toNat < err.toNat)) ∧
    (f64IsZero thresh = true → pwarnOf err thresh = decide (0 < err.toNat)) ∧
    (unrecOf err = true ↔ err = f64Half) ∧
    (f64IsNaN thresh = true → maxErrOf err thresh = thresh)

end Commands

section Window

open Sys2Proof Sys2Proof.Machine

/-- What a host access does: in the window, while the reset input is released, it is the access at its
offset; a 32-bit access at a named register's offset reads or writes that register, and its answer is given
to the host; an access of another width, or not at a multiple of 4, is answered with a bus error and changes
nothing; an access outside the window is not decoded and changes nothing (10_state.md R28, 20_memory.md R67,
R68, 60_exceptions.md R209). An access is placed by its first byte: for one that begins below the window and
reaches into it that is the model's choice (log 35). -/
def Obligations.BusErrorChangesNothing : Prop :=
  ∀ s : State,
    (∀ (off : Nat) (width : AccessWidth) (v : DWord), width ≠ .w32 ∨ off % 4 ≠ 0 →
      readOffset off width s = (.busError, s) ∧ writeOffset off width v s = (.busError, s)) ∧
    (∀ (r : WinReg) (v : DWord),
      readOffset (offsetOf r) .w32 s = (.data (readReg r s).1, (readReg r s).2) ∧
      writeOffset (offsetOf r) .w32 v s = (.done, writeReg r (v.extractLsb' 0 32) s)) ∧
    ([WinReg.id, .caps, .ctrl, .status, .cmd, .cfgB, .cfgSize, .actNio, .arg, .errLo, .errHi, .maxErrLo,
        .maxErrHi, .threshLo, .threshHi, .fpLo, .fpHi, .valid, .digIdx, .digData, .rawSel, .rawIdx, .rawLo,
        .rawHi, .rawWords, .actB, .actSize].map offsetOf =
      [0x000, 0x004, 0x008, 0x00C, 0x010, 0x014, 0x018, 0x01C, 0x020, 0x024, 0x028, 0x02C, 0x030, 0x034, 0x038,
        0x03C, 0x040, 0x044, 0x048, 0x04C, 0x050, 0x054, 0x058, 0x05C, 0x060, 0x064, 0x068]) ∧
    (∀ (off : Nat) (width : AccessWidth) (v : DWord), off < 256 → s.resetIn = false →
      busRead (Config.base + off) width s = readOffset off width s ∧
      busWrite (Config.base + off) width v s = writeOffset off width v s) ∧
    (∀ (addr : Nat) (width : AccessWidth) (v : DWord), addr < Config.base ∨ Config.base + 256 ≤ addr →
      busRead addr width s = (.notDecoded, s) ∧ busWrite addr width v s = (.notDecoded, s)) ∧
    (∀ (addr : Nat) (width : AccessWidth) (v : DWord),
      runEvent (.read addr width) s = { (busRead addr width s).2 with
        answers := (busRead addr width s).1 :: (busRead addr width s).2.answers } ∧
      runEvent (.write addr width v) s = { (busWrite addr width v s).2 with
        answers := (busWrite addr width v s).1 :: (busWrite addr width v s).2.answers })

/-- Unnamed offsets and reserved bits read 0 and ignore writes, without a bus error (20_memory.md R71). The
reserved bits of CFG_SIZE read 0 because the state keeps them 0, an invariant of its own. -/
def Obligations.UnnamedAndReserved : Prop :=
  (∀ (s : State) (off : Nat) (v : DWord), off % 4 = 0 → off < 256 → (∀ r, offsetOf r ≠ off) →
    readOffset off .w32 s = (.data 0, s) ∧ writeOffset off .w32 v s = (.done, s)) ∧
  (∀ (r : WinReg) (s : State), s.cfgSize &&& cfgSizeMask = s.cfgSize →
    (readReg r s).1 &&& reservedMask r = 0) ∧
  (∀ (r : WinReg) (s : State) (v : Word), writeReg r v s = writeReg r (v &&& ~~~reservedMask r) s)

/-- Only DIG_DATA, RAW_LO and RAW_HI have read side effects; reads of every other offset are idempotent
(20_memory.md R72). -/
def Obligations.ReadsWithoutEffect : Prop :=
  ∀ (s : State) (off : Nat) (width : AccessWidth),
    off ≠ offsetOf .digData → off ≠ offsetOf .rawLo → off ≠ offsetOf .rawHi →
    (readOffset off width s).2 = s

/-- What the host reads back after it wrote a register: all of CFG_B, ARG and the halves of THRESH (and of
MAXERR while idle), and the defined bits of CFG_SIZE, DIG_IDX, RAW_SEL, RAW_IDX and CTRL (10_state.md R31,
R35, R36, R38, R40, R41, R44, R46, R47). A write of a read-only register is ignored (R28), and a write of one
of these registers, or of CTRL with SRST = 0, changes nothing beyond it, busy or not (20_memory.md R72). -/
def Obligations.WrittenRegistersReadBack : Prop :=
  ∀ (s : State) (v : Word),
    (readReg .cfgB (writeReg .cfgB v s)).1 = v ∧
    (readReg .cfgSize (writeReg .cfgSize v s)).1 = v &&& 0x01FFFF1F ∧
    (readReg .arg (writeReg .arg v s)).1 = v ∧
    (readReg .threshLo (writeReg .threshLo v s)).1 = v ∧
    (readReg .threshHi (writeReg .threshHi v s)).1 = v ∧
    (readReg .threshHi (writeReg .threshLo v s)).1 = (readReg .threshHi s).1 ∧
    (readReg .threshLo (writeReg .threshHi v s)).1 = (readReg .threshLo s).1 ∧
    (readReg .digIdx (writeReg .digIdx v s)).1 = v &&& 0x007FFFFF ∧
    (readReg .rawSel (writeReg .rawSel v s)).1 = v &&& 0x000000FF ∧
    (readReg .rawIdx (writeReg .rawIdx v s)).1 = v &&& 0x01FFFFFF ∧
    (v.getLsbD 1 = false → (readReg .ctrl (writeReg .ctrl v s)).1 = v &&& 0x00000001) ∧
    (s.busy = false → (readReg .maxErrLo (writeReg .maxErrLo v s)).1 = v ∧
      (readReg .maxErrHi (writeReg .maxErrLo v s)).1 = (readReg .maxErrHi s).1 ∧
      (readReg .maxErrHi (writeReg .maxErrHi v s)).1 = v ∧
      (readReg .maxErrLo (writeReg .maxErrHi v s)).1 = (readReg .maxErrLo s).1) ∧
    (∀ r ∈ [WinReg.id, .caps, .actNio, .errLo, .errHi, .fpLo, .fpHi, .valid, .digData, .rawWords, .actB,
        .actSize], writeReg r v s = s) ∧
    writeReg .cfgB v s = { s with cfgB := v } ∧
    writeReg .cfgSize v s = { s with cfgSize := v &&& 0x01FFFF1F } ∧
    writeReg .arg v s = { s with arg := v } ∧
    writeReg .threshLo v s = { s with thresh := (s.thresh.extractLsb' 32 32 ++ v : F64) } ∧
    writeReg .threshHi v s = { s with thresh := (v ++ s.thresh.extractLsb' 0 32 : F64) } ∧
    writeReg .digIdx v s = { s with digIdx := v.setWidth 23 } ∧
    writeReg .rawSel v s = { s with rawSel := v.setWidth 8 } ∧
    writeReg .rawIdx v s = { s with rawIdx := v.setWidth 25 } ∧
    (s.busy = false →
      writeReg .maxErrLo v s = { s with maxErr := (s.maxErr.extractLsb' 32 32 ++ v : F64) } ∧
      writeReg .maxErrHi v s = { s with maxErr := (v ++ s.maxErr.extractLsb' 0 32 : F64) }) ∧
    (v.getLsbD 1 = false → writeReg .ctrl v s = { s with ie := v.getLsbD 0 })

/-- DIG_DATA: while idle, with DVALID set and DIG_IDX < N, a read returns D[DIG_IDX] and increments DIG_IDX;
in every other case it returns 0 and changes nothing; a write is ignored (10_state.md R45). That DIG_IDX
goes from 2^23 − 1 to 0 after the last digit of N = 2^23 is the model's reading of its 23 bits (log 22). -/
def Obligations.DigitWindow : Prop :=
  ∀ s : State,
    (∀ c p, s.engine = .configured c p → s.busy = false → s.dvalid = true →
      s.digIdx.toNat < nLen (cfgL c) →
      readReg .digData s = (s.digits.getD s.digIdx.toNat 0, { s with digIdx := s.digIdx + 1 })) ∧
    ((s.engine = .unconfigured ∨ s.busy = true ∨ s.dvalid = false ∨
      ∃ c p, s.engine = .configured c p ∧ nLen (cfgL c) ≤ s.digIdx.toNat) →
      readReg .digData s = (0, s)) ∧
    (∀ v, writeReg .digData v s = s)

/-- RAW_LO: a read of a reached word latches it and returns its low half; any other read returns 0 and
changes nothing; a write stores RAW_HOLD at any time and does nothing else (10_state.md R48). RAW_SEL = 0xFF
selects r_m, a value up to NUM_REGS selects r_j, and any other value no register (R46). -/
def Obligations.RawLowHalf : Prop :=
  ∀ s : State,
    (∀ c p (j : RegId), s.engine = .configured c p →
      (s.rawSel.toNat = 0xFF ∧ j = 31) ∨ (s.rawSel.toNat = j.val ∧ j.val ≤ cfgR c ∧ j.val ≤ 30) →
      s.busy = false → s.rawIdx.toNat < rawWordsOf (cfgL c) →
      readReg .rawLo s = ((imgWord s (cfgL c) j s.rawIdx.toNat).extractLsb' 0 32,
        { s with rawLatch := imgWord s (cfgL c) j s.rawIdx.toNat })) ∧
    ((s.engine = .unconfigured ∨ s.busy = true ∨
      ∃ c p, s.engine = .configured c p ∧
        ((s.rawSel.toNat ≠ 0xFF ∧ cfgR c < s.rawSel.toNat) ∨ rawWordsOf (cfgL c) ≤ s.rawIdx.toNat)) →
      readReg .rawLo s = (0, s)) ∧
    (∀ v, writeReg .rawLo v s = { s with rawHold := v })

/-- RAW_HI: a read of a reached word returns the latch's high half and increments RAW_IDX; a write puts
the new half and RAW_HOLD into the word, increments RAW_IDX and leaves the register with no value, and
changes no other byte; otherwise both do nothing (10_state.md R49). RAW_SEL selects as R46 says. -/
def Obligations.RawHighHalf : Prop :=
  ∀ s : State,
    (∀ c p (j : RegId), s.engine = .configured c p →
      (s.rawSel.toNat = 0xFF ∧ j = 31) ∨ (s.rawSel.toNat = j.val ∧ j.val ≤ cfgR c ∧ j.val ≤ 30) →
      s.busy = false → s.rawIdx.toNat < rawWordsOf (cfgL c) →
      readReg .rawHi s = (s.rawLatch.extractLsb' 32 32, { s with rawIdx := s.rawIdx + 1 }) ∧
      ∀ v, imgWord (writeReg .rawHi v s) (cfgL c) j s.rawIdx.toNat = (v ++ s.rawHold : DWord) ∧
        BytesKeptOutside (imageBase (cfgL c) j + 8 * s.rawIdx.toNat) 8 s (writeReg .rawHi v s) ∧
        (writeReg .rawHi v s).regs[j] = none ∧ RegsKeptBut j s (writeReg .rawHi v s) ∧
        writeReg .rawHi v s = { s with
          arena := (writeReg .rawHi v s).arena
          regs := (writeReg .rawHi v s).regs
          rawIdx := s.rawIdx + 1 }) ∧
    ((s.engine = .unconfigured ∨ s.busy = true ∨
      ∃ c p, s.engine = .configured c p ∧
        ((s.rawSel.toNat ≠ 0xFF ∧ cfgR c < s.rawSel.toNat) ∨ rawWordsOf (cfgL c) ≤ s.rawIdx.toNat)) →
      readReg .rawHi s = (0, s) ∧ ∀ v, writeReg .rawHi v s = s)

/-- A raw word written through RAW_LO and RAW_HI is the word read back through them at the same index
(70_reset_and_hazards.md R226). For a gap word, which R88 of 20_memory.md leaves unspecified on read, that is
the model's choice (log 26). -/
def Obligations.RawWordRoundTrip : Prop :=
  ∀ (s t : State) (c : ActiveCfg) (p : Phase) (j : RegId) (lo hi : Word),
    s.engine = .configured c p →
    (s.rawSel.toNat = 0xFF ∧ j = 31) ∨ (s.rawSel.toNat = j.val ∧ j.val ≤ cfgR c ∧ j.val ≤ 30) →
    s.busy = false → s.rawIdx.toNat < rawWordsOf (cfgL c) →
    t = writeReg .rawIdx (s.rawIdx.setWidth 32) (writeReg .rawHi hi (writeReg .rawLo lo s)) →
    (readReg .rawLo t).1 = lo ∧ (readReg .rawHi (readReg .rawLo t).2).1 = hi

/-- A write of CMD while idle accepts the word: CMD_LAT and the operand latches of the command are loaded,
BUSY is set, DONE is cleared, and nothing else changes; CMD then reads the word (44_commands.md R187). The
steps the command will run are the model's own (log 8), and so is that an illegal word whose OP byte is 1, 2,
3 or 6 loads the latches of that command (log 23). -/
def Obligations.CommandAccepted : Prop :=
  ∀ (s : State) (w : Word), s.busy = false →
    writeReg .cmd w s = { s with
      cmdLat := w
      busy := true
      done := false
      cfgLatB := if w.toNat % 256 = 1 then s.cfgB else s.cfgLatB
      cfgLatSize := if w.toNat % 256 = 1 then s.cfgSize else s.cfgLatSize
      argLat := if w.toNat % 256 = 2 then s.arg else s.argLat
      threshLat := if w.toNat % 256 = 3 ∨ w.toNat % 256 = 6 then s.thresh else s.threshLat
      remaining := (writeReg .cmd w s).remaining
      draw := (writeReg .cmd w s).draw } ∧
    (readReg .cmd (writeReg .cmd w s)).1 = w

/-- A write of CMD while a command runs is dropped: it sets CMDOVF and does nothing else
(60_exceptions.md R208); writing 1 to CMDOVF clears it. A write of STATUS clears DONE and CMDOVF where 1 is
written, leaves each where 0 is written, and leaves every other field (10_state.md R32). -/
def Obligations.CommandDropped : Prop :=
  (∀ (s : State) (w : Word), s.busy = true → writeReg .cmd w s = { s with cmdOvf := true }) ∧
  (∀ (s : State) (w : Word), w.getLsbD 2 = true → (writeReg .status w s).cmdOvf = false) ∧
  (∀ (s : State) (w : Word), writeReg .status w s = { s with
    done := if w.getLsbD 1 then false else s.done
    cmdOvf := if w.getLsbD 2 then false else s.cmdOvf })

/-- A soft reset, busy or not, and the release of the reset input put every piece of state to its reset value;
while the input is asserted the block answers no access in its window (70_reset_and_hazards.md R219, R220).
That the assertion gives the reset values too is the model's choice (log 10), and so are the values of what
R221 leaves unspecified (logs 1 to 4). -/
def Obligations.ResetsGiveResetState : Prop :=
  (∀ (s : State) (v : Word), v.getLsbD 1 = true → AtReset (writeReg .ctrl v s)) ∧
  (∀ s : State, AtReset (runEvent (.resetInput true) s) ∧ (runEvent (.resetInput true) s).resetIn = true) ∧
  (∀ s : State, s.resetIn = true →
    AtReset (runEvent (.resetInput false) s) ∧ (runEvent (.resetInput false) s).resetIn = false) ∧
  (∀ (s : State) (off : Nat) (width : AccessWidth) (v : DWord), s.resetIn = true → off < 256 →
    busRead (Config.base + off) width s = (.noAnswer, s) ∧
      busWrite (Config.base + off) width v s = (.noAnswer, s))

/-- What the host reads right after reset: the reset column of the register table (10_state.md R28,
70_reset_and_hazards.md R221). -/
def Obligations.RegistersAfterReset : Prop :=
  (∀ r : WinReg, r ≠ .id → r ≠ .caps → r ≠ .threshLo → r ≠ .threshHi → (readReg r State.reset).1 = 0) ∧
    (readReg .threshLo State.reset).1 = 0x9999999A ∧ (readReg .threshHi State.reset).1 = 0x3FD99999 ∧
    (readReg .caps State.reset).1 = 0x0100170A ∧ irq State.reset = false ∧
    (∀ j : RegId, State.reset.regs[j] = none)

/-- A read of STATUS: its fields by number, and its reserved bits (10_state.md R28, R32, R33, 60_exceptions.md
R202). -/
def Obligations.StatusFields : Prop :=
  ∀ s : State,
    readReg .status s = (statusWord s, s) ∧ (statusWord s).getLsbD 0 = s.busy ∧ (statusWord s).getLsbD 1 = s.done ∧
    (statusWord s).getLsbD 2 = s.cmdOvf ∧ (statusWord s).getLsbD 3 = false ∧
    ((statusWord s).extractLsb' 4 4).toNat = (match s.errCode with
      | .ok => 0
      | .config => 1
      | .illegal => 2
      | .state => 3
      | .reg => 4
      | .unwritten => 5) ∧
    ((statusWord s).extractLsb' 8 3).toNat = (match s.engine with
      | .unconfigured => 0
      | .configured _ .constructed => 1
      | .configured _ .initialized => 2
      | .configured _ .spectral => 3) ∧
    (statusWord s).getLsbD 11 = false ∧ (statusWord s).getLsbD 12 = s.pwarn ∧
    (statusWord s).getLsbD 13 = s.unrec ∧ (statusWord s).getLsbD 14 = s.one ∧
    (statusWord s).getLsbD 15 = s.m1 ∧ (statusWord s).getLsbD 16 = s.dvalid ∧
    (statusWord s).extractLsb' 17 15 = 0

/-- Bit j of VALID tells whether register j holds a value, bit 31 being r_m's, and reads 0 for a register
the configuration does not have, by an invariant of its own; writes are ignored, and reset leaves 0
(10_state.md R43). -/
def Obligations.ValidBits : Prop :=
  ∀ s : State, (∀ j : RegId, (validWord s).getLsbD j.val = (s.regs[j]).isSome) ∧
    (RegsOk s → ∀ c p, s.engine = .configured c p →
      ∀ j : RegId, cfgR c < j.val → j.val ≤ 30 → (validWord s).getLsbD j.val = false) ∧
    (readReg .valid s).1 = validWord s ∧ (∀ v, writeReg .valid v s = s) ∧
    (readReg .valid State.reset).1 = 0 ∧ Config.nregsMax.val ≤ 30

/-- IRQ is CTRL.IE AND STATUS.DONE: a completion raises it while IE is set, and so does setting IE while DONE
is set; writing 1 to DONE, clearing IE, the acceptance of a command and a reset lower it
(60_exceptions.md R207). -/
def Obligations.InterruptLevel : Prop :=
  ∀ s : State, irq s = (s.ie && s.done) ∧ (∀ b : Bool, irq { s with cmdOvf := b } = irq s) ∧
    (∀ code, s.ie = true → irq (complete code s) = true) ∧
    (∀ v : Word, v.getLsbD 1 = false → v.getLsbD 0 = true → s.done = true → irq (writeReg .ctrl v s) = true) ∧
    (∀ v : Word, v.getLsbD 1 = true → irq (writeReg .status v s) = false) ∧
    (∀ v : Word, v.getLsbD 0 = false → irq (writeReg .ctrl v s) = false) ∧
    (∀ w : Word, s.busy = false → irq (writeReg .cmd w s) = false) ∧
    (∀ v : Word, v.getLsbD 1 = true → irq (writeReg .ctrl v s) = false) ∧
    (∀ b : Bool, s.resetIn = true ∨ b = true → irq (runEvent (.resetInput b) s) = false)

/-- While a command runs: DIG_DATA, RAW_LO and RAW_HI read 0 without effect, writes of RAW_HI and MAXERR are
ignored, RAW_LO still loads RAW_HOLD, and the writes of CFG_B, CFG_SIZE, ARG, THRESH, DIG_IDX, RAW_SEL and
RAW_IDX take effect at once and leave the command's latches alone (20_memory.md R76). -/
def Obligations.WindowsWhileBusy : Prop :=
  ∀ (s : State) (v : Word), s.busy = true →
    readReg .digData s = (0, s) ∧ readReg .rawLo s = (0, s) ∧ readReg .rawHi s = (0, s) ∧
    writeReg .rawHi v s = s ∧ writeReg .maxErrLo v s = s ∧ writeReg .maxErrHi v s = s ∧
    writeReg .rawLo v s = { s with rawHold := v } ∧
    writeReg .cfgB v s = { s with cfgB := v } ∧
    writeReg .cfgSize v s = { s with cfgSize := v &&& 0x01FFFF1F } ∧
    writeReg .arg v s = { s with arg := v } ∧
    writeReg .threshLo v s = { s with thresh := (s.thresh.extractLsb' 32 32 ++ v : F64) } ∧
    writeReg .threshHi v s = { s with thresh := (v ++ s.thresh.extractLsb' 0 32 : F64) } ∧
    writeReg .digIdx v s = { s with digIdx := v.setWidth 23 } ∧
    writeReg .rawSel v s = { s with rawSel := v.setWidth 8 } ∧
    writeReg .rawIdx v s = { s with rawIdx := v.setWidth 25 }

/-- ID, CAPS and the read-outs of the active configuration (10_state.md R29, R30, R37, R50, R51), with the
values of n_io written out (00_scope.md R10); and a read of ERR, MAXERR and FP gives their halves, the low one
at the lower offset, and of CMD the last accepted word (10_state.md R34, R39, R40, R42, 20_memory.md R70). -/
def Obligations.IdentityAndReadOuts : Prop :=
  ∀ s : State,
    (((readReg .id s).1.extractLsb' 0 8).toNat = Config.laneWidth.lanes ∧
      ((readReg .id s).1.extractLsb' 8 8).toNat = Config.tMax ∧
      ((readReg .id s).1.extractLsb' 16 8).toNat = Config.nregsMax.val ∧
      ((readReg .id s).1.extractLsb' 24 8).toNat = 0x47) ∧
    (readReg .caps s).1 = 0x0100170A ∧
    ((readReg .errLo s).1 = s.err.extractLsb' 0 32 ∧ (readReg .errHi s).1 = s.err.extractLsb' 32 32 ∧
      (readReg .maxErrLo s).1 = s.maxErr.extractLsb' 0 32 ∧
      (readReg .maxErrHi s).1 = s.maxErr.extractLsb' 32 32 ∧
      (readReg .fpLo s).1 = s.fp.extractLsb' 0 32 ∧ (readReg .fpHi s).1 = s.fp.extractLsb' 32 32 ∧
      (readReg .cmd s).1 = s.cmdLat) ∧
    (s.engine = .unconfigured → (readReg .actNio s).1 = 0 ∧ (readReg .rawWords s).1 = 0 ∧
      (readReg .actB s).1 = 0 ∧ (readReg .actSize s).1 = 0) ∧
    (∀ c p, s.engine = .configured c p → (readReg .actB s).1 = c.b ∧
      (readReg .actNio s).1.toNat =
        (if cfgL c ≤ 11 then 64 else if cfgL c ≤ 13 then 256 else if cfgL c ≤ 15 then 1024 else 4096) ∧
      (10 ≤ cfgL c → cfgL c ≤ 23 → (readReg .rawWords s).1.toNat =
        2 * (2 ^ cfgL c + 4 * (2 ^ cfgL c / (readReg .actNio s).1.toNat))) ∧
      (readReg .actSize s).1.extractLsb' 0 5 = c.log2n ∧ (readReg .actSize s).1.extractLsb' 8 8 = c.t ∧
      (readReg .actSize s).1.extractLsb' 16 8 = c.numRegs ∧
      (readReg .actSize s).1.getLsbD 24 = c.checkError)

end Window

section Arena

open Sys2Proof Sys2Proof.Machine

/-- The views of a configuration do not overlap, begin at multiples of 64 bytes, and ARENA_REQ is what they
take and 448 bytes more (20_memory.md R84, R85). The arena's base is aligned to 2 MiB, and a PE's vector
access to an image, W words from word W·i on, is aligned to its 8·W bytes (R86). -/
def Obligations.ArenaViews : Prop :=
  ∀ (l t r : Nat), 10 ≤ l → l ≤ 23 → r ≤ 30 →
    (∀ j k : RegId, (j = regM ∨ j.val ≤ r) → (k = regM ∨ k.val ≤ r) → j ≠ k →
      imageBase l j + imageBytesOf l ≤ imageBase l k ∨ imageBase l k + imageBytesOf l ≤ imageBase l j) ∧
    (∀ j : RegId, (j = regM ∨ j.val ≤ r) → imageBase l j + imageBytesOf l ≤ scratchBase l r ∧
      imageBase l j % 64 = 0) ∧
    scratchBase l r % 64 = 0 ∧ scratchBase l r + imageBytesOf l = w122iBase l r ∧
    w122iBase l r % 64 = 0 ∧ w122iBase l r + 16 * (nLen l / 8) = wsBase l r ∧
    wsBase l r % 64 = 0 ∧ wsBase l r + 16 * (nLen l / 8) = slotsBase l r ∧ slotsBase l r % 64 = 0 ∧
    arenaReq l t r = slotsBase l r + 16 * (t * rowsOf l) + 448 ∧
    arenaAddress 0 % 2 ^ 21 = 0 ∧
    (∀ (W : LaneWidth) (s : State) (j : RegId) (i : Nat), j = regM ∨ j.val ≤ r →
      (∀ k : Fin W.lanes, (imgVector W s l j i)[k] = arenaWord s (imageBase l j + 8 * (W.lanes * i + k.val))) ∧
      arenaAddress (imageBase l j + 8 * (W.lanes * i)) % (8 * W.lanes) = 0)

/-- In the reference datapath, words 2·index(k) and 2·index(k) + 1 of an image hold the parts of sample k,
and every other word of the image is a gap word (20_memory.md R82, R88). -/
def Obligations.SampleWordPlaces : Prop :=
  ∀ (l : Nat) (z : Samples) (gap : Nat → DWord), 10 ≤ l → l ≤ 23 →
    (∀ k, k < nLen l →
      2 * padIndex l k + 1 < rawWordsOf l ∧
      sampleImageWord l z gap (2 * padIndex l k) = (sampleAt f64Arith z k).re ∧
      sampleImageWord l z gap (2 * padIndex l k + 1) = (sampleAt f64Arith z k).im) ∧
    (∀ w, w < rawWordsOf l → (∀ k, k < nLen l → w ≠ 2 * padIndex l k ∧ w ≠ 2 * padIndex l k + 1) →
      sampleImageWord l z gap w = gap w)

/-- The invariant of the machine is kept by every step: the arena keeps its canonical form inside the
images, the active configuration is one CONFIGURE accepts, only its registers hold values and each is a
residue of Z_n, D has N digits when DVALID, ERR lies in [0, 0.5], reserved bits stay 0, and CONSTRUCTED
means that r_0 holds nothing (10_state.md R33, R36, R43, R51, R52, R57; 42_passes.md R175). -/
def Obligations.StepKeepsInvariant : Prop :=
  ∀ s t : State, Inv s → step s = .next t → Inv t

/-- The state after reset meets the invariant, and its images are on record. Two parts of this are the model's:
the record of images (log 12), and the value in the reset state of CFG_LAT, which R221 leaves unspecified
(log 1). -/
def Obligations.ResetMeetsInvariant : Prop := Inv State.reset ∧ Recorded State.reset

/-- Every step keeps the record of images true: each register that holds a value has an image on record that
stands for that value, so that the restore law covers every image the host can read (10_state.md R54). The
record is the model's (log 12). -/
def Obligations.StepKeepsImagesRecorded : Prop :=
  ∀ s t : State, Inv s → Recorded s → step s = .next t → Recorded t

end Arena

section Arithmetic

open Sys2Proof Sys2Proof.Machine

/-- The two bounds of the carry: every digit it writes is at most b/2 in magnitude, and a running carry is at
most 2·(g·O/b + g + 1) where every rounded carry input is at most O (42_passes.md R164). -/
def Obligations.CarryBounds : Prop :=
  ∀ (b g : Nat) (bound : Nat) (os : List Int), 2 ≤ b → (∀ o ∈ os, o.natAbs ≤ bound) →
    (∀ z ∈ (carryRun b g 0 os).1, 2 * z.natAbs ≤ b) ∧
    b * (carryRun b g 0 os).2.natAbs ≤ 2 * (g * bound + (g + 1) * b)

/-- Along a row, the carry keeps the digits' sum plus the carry passed on, scaled by g; and the stitch along
a tile's row keeps the digits' sum plus the carry taken in, the leftover included (42_passes.md R163, R170,
R171). -/
def Obligations.CarryRowsKeepSum : Prop :=
  (∀ (b g : Nat) (f : Int) (os : List Int), 0 < b →
    (carryRun b g f os).1.length = os.length ∧
    digitSum b (carryRun b g f os).1 + (b : Int) ^ os.length * (carryRun b g f os).2 =
      f + g * digitSum b os) ∧
  (∀ (b : Nat) (f : Int) (zs : List Int), 0 < b → zs ≠ [] →
    (stitchRow b f zs).length = zs.length ∧ digitSum b (stitchRow b f zs) = f + digitSum b zs)

/-- What passes 2 and 2_1 preserve: the sum of the digits they leave is g times the sum of the rounded carry
inputs modulo n, for every number of PEs and every width of their tiles (42_passes.md R173). And what the
passes leave in Z is the outer-forward image of those digits in every column group, on the binary64 datapath,
for every base of 32 bits and every evaluation of the carry input and the split (R174). -/
def Obligations.PassesKeepValue : Prop :=
  (∀ (W : LaneWidth) (b g l t : Nat) (o : Nat → Int), 0 < b → 10 ≤ l → l ≤ 23 → 1 ≤ t → t ≤ g8 l →
    digitSum b ((List.range (nLen l)).map (stitchedDigits W b g l t o)) ≡
      g * digitSum b ((List.range (nLen l)).map o) [ZMOD (modulus b l)]) ∧
  (∀ (W : LaneWidth) (ev : Evaluator) (g l t : Nat) (z1 : Samples),
    0 < ev.b → ev.b < 2 ^ 32 → 10 ≤ l → l ≤ 23 → 1 ≤ t → t ≤ g8 l →
    (runPasses W ev l t g z1).1 = outerImage ev l (stitchedDigits W ev.b g l t fun k =>
      sampleRound ev l (sampleAt f64Arith (inverseOuter f64Arith f64Roots l (lS l) z1) k)))

/-- The result of `unbalance` is fixed by the value v of the digits: for v other than n − 1 the base-b
expansion of v, with m1 = 0, and for n − 1 the special form with m1 = 1 (43_residue.md R181, whose argument
takes digits below 2^63 in magnitude and N ≥ 1024). -/
def Obligations.UnbalanceByValue : Prop :=
  ∀ (b : Nat) (zs : List Int), 2 ≤ b → 1024 ≤ zs.length → (∀ z ∈ zs, z.natAbs < 2 ^ 63) →
    ∃ v : Nat, (v : Int) = digitSum b zs % ((b ^ zs.length + 1 : Nat) : Int) ∧
      (v ≠ b ^ zs.length →
        (unbalance b zs).m1 = false ∧ (unbalance b zs).digits.length = zs.length ∧
        digitSum b (unbalance b zs).digits = v ∧ ∀ z ∈ (unbalance b zs).digits, 0 ≤ z ∧ z < b) ∧
      (v = b ^ zs.length → unbalance b zs = specialForm zs.length)

/-- The canonical form of a residue v is its expansion: N digits in [0, b) whose sum is v, and for v = n − 1
the special form of −1 (43_residue.md R181, 44_commands.md R197). -/
def Obligations.CanonicalForm : Prop :=
  ∀ (b n v : Nat), 2 ≤ b → 1 ≤ n → v ≤ b ^ n →
    (canonOf b n v).digits.length = n ∧
    (v < b ^ n → (canonOf b n v).m1 = false ∧ digitSum b (canonOf b n v).digits = v ∧
      ∀ z ∈ (canonOf b n v).digits, 0 ≤ z ∧ z < b) ∧
    (v = b ^ n → (canonOf b n v).m1 = true ∧ (canonOf b n v).digits.headD 0 = -1 ∧
      ∀ z ∈ (canonOf b n v).digits.tail, z = 0)

/-- The fingerprint holds the low bytes of the last eight digits, digit N − 8 in the most significant byte
(43_residue.md R183); it is 0 for the residues 1 and −1 (R183, R185). -/
def Obligations.FingerprintBytes : Prop :=
  (∀ (zs : List Int), 8 ≤ zs.length → ∀ i, i < 8 →
    ((fingerprint zs).extractLsb' (8 * (7 - i)) 8).toNat =
      (zs.getD (zs.length - 8 + i) 0 % 256).toNat) ∧
  (∀ (b n : Nat), 2 ≤ b → 1024 ≤ n →
    fingerprint (canonOf b n 1).digits = 0 ∧ fingerprint (canonOf b n (b ^ n)).digits = 0)

/-- The is-one test on the canonical form holds exactly for the residue 1 (43_residue.md R184). -/
def Obligations.IsOneExactlyForOne : Prop :=
  (∀ k : Canon, canonIsOne k = true ↔
    k.m1 = false ∧ ∃ zs, k.digits = 1 :: zs ∧ ∀ z ∈ zs, z = 0) ∧
  (∀ (b n v : Nat), 2 ≤ b → 1 ≤ n → v ≤ b ^ n → (canonIsOne (canonOf b n v) = true ↔ v = 1))

/-- SET's balanced expansion: every digit lies in (−b/2, b/2], and the digits' sum is a, for every i32 a
where b ≥ 4 or a ≥ 0 (44_commands.md R192). For b = 2 and a < 0 the expansion does not end (log 32). -/
def Obligations.BalancedExpansion : Prop :=
  ∀ (b n : Nat) (a : Int), b % 2 = 0 → 2 ≤ b → 1024 ≤ n → -2 ^ 31 ≤ a → a < 2 ^ 31 →
    (∀ d ∈ balancedDigits b n a, -(b : Int) < 2 * d ∧ 2 * d ≤ b) ∧
    (4 ≤ b ∨ 0 ≤ a → digitSum b (balancedDigits b n a) = a)

/-- The split of a digit: h is the integer nearest z/√b, so that |z − h·√b| ≤ √b/2 for every z, and
|h| ≤ floor(√b/2 + 1/2) for |z| ≤ b/2 (42_passes.md R167). -/
def Obligations.SplitBounds : Prop :=
  ∀ (b : Nat) (z : Int), 0 < b →
    |(z : ℝ) - splitH b z * Real.sqrt b| ≤ Real.sqrt b / 2 ∧
    (2 * |z| ≤ b → |splitH b z| ≤ ⌊Real.sqrt b / 2 + 1 / 2⌋)

/-- What the PEs own. In pass 2 every column group belongs to exactly one PE, and every PE owns at least one;
the tiles of two PEs share no position (42_passes.md R160, 20_memory.md R90, R92). In pass 1 every row
belongs to exactly one PE, together with the row of its conjugate indices, a PE writes no row it does not
own, and the result does not depend on the number of PEs (42_passes.md R155, 20_memory.md R93). -/
def Obligations.ColumnGroupsPartitioned : Prop :=
  (∀ l : Nat, nio l = if l ≤ 11 then 64 else if l ≤ 13 then 256 else if l ≤ 15 then 1024 else 4096) ∧
  ∀ (l t : Nat), 1 ≤ t → t ≤ g8 l →
    (∀ lh lh' row row' i i', lh < g8 l → lh' < g8 l → i < 8 → i' < 8 →
      groupOwner l t lh ≠ groupOwner l t lh' →
      tilePosition (nio l) lh 0 row i ≠ tilePosition (nio l) lh' 0 row' i') ∧
    (10 ≤ l → l ≤ 23 → ∀ row, row < rowsOf l →
      (∃! pe, pe < t ∧ pe * (rowsOf l / 2) / t ≤ min row (rowsOf l - 1 - row) ∧
        min row (rowsOf l - 1 - row) < (pe + 1) * (rowsOf l / 2) / t) ∧
      ∀ pe, pe < t →
        (ownsRow l t pe row = true ↔ pe * (rowsOf l / 2) / t ≤ min row (rowsOf l - 1 - row) ∧
          min row (rowsOf l - 1 - row) < (pe + 1) * (rowsOf l / 2) / t) ∧
        ownsRow l t pe (rowsOf l - 1 - row) = ownsRow l t pe row ∧
        ∀ (f : Samples → Samples) (z : Samples) (k : Nat), k < nLen l → k / nio l = row →
          ownsRow l t pe row = false →
          sampleAt f64Arith (pass1Pe l t pe f z) k = sampleAt f64Arith z k) ∧
    (10 ≤ l → l ≤ 23 → ∀ z zp : Samples, pass1Square l t z = pass1Square l 1 z ∧
      pass1Mul l t z zp = pass1Mul l 1 z zp) ∧
    (∀ pe, firstGroup l t pe = pe * (nio l / 8) / t) ∧ firstGroup l t 0 = 0 ∧ firstGroup l t t = g8 l ∧
    (∀ pe, pe < t → firstGroup l t pe < firstGroup l t (pe + 1)) ∧
    (∀ lh, lh < g8 l → groupOwner l t lh < t ∧ firstGroup l t (groupOwner l t lh) ≤ lh ∧
      lh < firstGroup l t (groupOwner l t lh + 1))

/-- The radix-4 and radix-8 stages of each transform are its levels in exact arithmetic: 0 … L_S − 1 for the
forward outer one, L_S … L − 1 for the forward inner one, and the same levels in the reverse order for the
inverse ones (41_butterflies.md R145, R131). -/
def Obligations.OuterTransformIsItsLevels : Prop :=
  ∀ (K : Type) [CommRing K] (k : Roots K) (l p : Nat) (u : Array (Cx K)),
    10 ≤ l → l ≤ 23 → p < nLen l →
    sampleAt (exactArith K) (forwardOuter (exactArith K) k l (lS l) u) p =
      forwardLevels (treeRoot k) (nLen l) (lS l) (sampleAt (exactArith K) u) p ∧
    sampleAt (exactArith K) (inverseOuter (exactArith K) k l (lS l) u) p =
      inverseThrough (treeRoot k) (nLen l) (List.range (lS l)).reverse (sampleAt (exactArith K) u) p ∧
    sampleAt (exactArith K) (forwardInner (exactArith K) k l (lS l) u) p =
      forwardThrough (treeRoot k) (nLen l) (innerLevelList l) (sampleAt (exactArith K) u) p ∧
    sampleAt (exactArith K) (inverseInner (exactArith K) k l (lS l) u) p =
      inverseThrough (treeRoot k) (nLen l) (innerLevelList l).reverse (sampleAt (exactArith K) u) p

/-- The gains of the round trips in exact arithmetic: S for the outer transform, n_io for the inner one and N
for both (41_butterflies.md R132). -/
def Obligations.RoundTripGains : Prop :=
  ∀ (K : Type) [CommRing K] (k : Roots K) (l p : Nat) (u : Array (Cx K)),
    ExactRoots k → 10 ≤ l → l ≤ 23 → p < nLen l →
    sampleAt (exactArith K)
      (inverseOuter (exactArith K) k l (lS l) (forwardOuter (exactArith K) k l (lS l) u)) p =
        cxScale (exactArith K) (rowsOf l : K) (sampleAt (exactArith K) u p) ∧
    sampleAt (exactArith K)
      (inverseInner (exactArith K) k l (lS l) (forwardInner (exactArith K) k l (lS l) u)) p =
        cxScale (exactArith K) (nio l : K) (sampleAt (exactArith K) u p) ∧
    sampleAt (exactArith K)
      (inverseOuter (exactArith K) k l (lS l) (inverseInner (exactArith K) k l (lS l)
        (forwardInner (exactArith K) k l (lS l) (forwardOuter (exactArith K) k l (lS l) u)))) p =
        cxScale (exactArith K) (nLen l : K) (sampleAt (exactArith K) u p)

/-- The forward levels evaluate the input's polynomial at the roots of x^N = −1: u[j] = P(ρ_j), in exact
arithmetic, for any tree of roots (41_butterflies.md R129). -/
def Obligations.LevelsEvaluatePolynomial : Prop :=
  ∀ (K : Type) [CommRing K] (root : Nat → Nat → Cx K) (m j : Nat) (u : Nat → Cx K),
    1 ≤ m → RootTree root m → j < 2 ^ m →
    forwardLevels root (2 ^ m) m u j = cxEval u (leafRoot root m j) (2 ^ m)

/-- The pointwise stage in exact arithmetic: from the spectra r + i·h of two pairs of real polynomials at ρ
and at its conjugate it gives r² + ρ·h² + 2i·r·h, and for MUL the product form (41_butterflies.md R149,
R150). -/
def Obligations.PointwiseProducts : Prop :=
  ∀ (K : Type) [CommRing K] (half : K) (rho r h s k : Cx K), 2 * half = 1 →
    pointwiseSquare (exactArith K) half 2 rho (addi (exactArith K) r h)
        (addi (exactArith K) (cxConj (exactArith K) r) (cxConj (exactArith K) h)) =
      addi (exactArith K)
        (cxAdd (exactArith K) (cxMul (exactArith K) r r)
          (cxMul (exactArith K) rho (cxMul (exactArith K) h h)))
        (cxScale (exactArith K) 2 (cxMul (exactArith K) r h)) ∧
    pointwiseMul (exactArith K) half rho (addi (exactArith K) r h)
        (addi (exactArith K) (cxConj (exactArith K) r) (cxConj (exactArith K) h))
        (addi (exactArith K) s k)
        (addi (exactArith K) (cxConj (exactArith K) s) (cxConj (exactArith K) k)) =
      addi (exactArith K)
        (cxAdd (exactArith K) (cxMul (exactArith K) r s)
          (cxMul (exactArith K) rho (cxMul (exactArith K) h k)))
        (cxAdd (exactArith K) (cxMul (exactArith K) r k) (cxMul (exactArith K) h s))

/-- The host's test loop leaves 2^E mod n in r_0 when it begins with r_0 = 1 and every SQUARE_DUP is EXACT
(44_commands.md R201, R193), whatever the other open parameters of the commands; it issues floor(log2 E) + 1
commands, each a SQUARE_DUP whose meaning is the one `exec` runs. -/
def Obligations.TestLoopComputesPower : Prop :=
  (∀ (params : Nat → Draws) (s : State) (c : ActiveCfg) (p : Phase) (e : Nat),
    (∀ k, (params k).exact = true) → s.engine = .configured c p → s.regs[(0 : RegId)] = some 1 → 0 < e →
    ((testLoop e).foldl (fun t i => runLoopCommand (params t.draw) i t) s).regs[(0 : RegId)] =
      some (2 ^ e % cfgMod c)) ∧
  (∀ e : Nat, 0 < e → (testLoop e).length = Nat.log2 e + 1) ∧
  (∀ (e : Nat) (i : Instr) (s : State), i ∈ testLoop e →
    (∃ dup, i = .squareDup dup) ∧ exec i s = .next (runLoopCommand (Config.draws s.draw) i s))

end Arithmetic
end

