-- ==== Sys2Proof/Laws/Datapath.lean ====
section
/-!
SUPPORT. What the shared operations of the datapath do, said once: vectors, tiles, rounded division, the digits
of a carry and of an expansion, the integer square root, and the reduction modulo n.
-/

namespace Sys2Proof.Machine

/-! ### Vectors -/

@[simp] theorem tabulate_size {β : Type} (n : Nat) (g : Nat → β) : (tabulate n g).size = n := by
  simp [tabulate]

theorem tabulate_getD {β : Type} (n : Nat) (g : Nat → β) (k : Nat) (d : β) :
    (tabulate n g).getD k d = if k < n then g k else d := by
  by_cases h : k < n <;> simp [tabulate, Array.getD, h]

theorem sampleAt_tabulate {α : Type} (A : Arith α) (n : Nat) (g : Nat → Cx α) (k : Nat) :
    sampleAt A (tabulate n g) k = if k < n then g k else cxZero A :=
  tabulate_getD n g k _

/-! ### Negation -/

/-- The negation of a value that is not a NaN inverts its sign bit and nothing else (40_lane_vector.md R118). -/
theorem f64Neg_of_not_nan (x : F64) (h : f64IsNaN x = false) : f64Neg x = x ^^^ BitVec.ofNat 64 (2 ^ 63) := by
  simp [f64Neg, h]

/-! ### Tiles -/

theorem rowGroup_add_laneOf (W : LaneWidth) (row : Nat) : rowGroup W row + (laneOf W row).val = row := by
  simp only [rowGroup, laneOf]
  exact Nat.div_add_mod' row W.lanes

/-- A row of a tile is the eight digits of its column group, in every width (40_lane_vector.md R124,
R125). -/
theorem tileDigits_eq (W : LaneWidth) (z : Nat → Int) (nio lh row : Nat) :
    tileDigits W z nio lh row = (List.range 8).map fun i => z (row * nio + 8 * lh + i) := by
  refine List.ext_getElem (by simp [tileDigits]) fun i h _ => ?_
  simp only [tileDigits, transposeIn, tileLoad, vcxLane, vcxOfLanes, tilePosition, digitSample,
    Fin.getElem_fin, Vector.getElem_ofFn, List.getElem_map, Vector.getElem_toList, List.getElem_range]
  rw [rowGroup_add_laneOf]

/-- A tile that is written back changes no position outside it (20_memory.md R92). -/
theorem tileStore_outside {α : Type} {w : Nat} (tile : Vcx8 α w) (sample : Nat → Cx α) (nio lh l0 p : Nat)
    (h : ¬(p % nio / 8 = lh ∧ l0 ≤ p / nio ∧ p / nio - l0 < w)) :
    tileStore tile sample nio lh l0 p = sample p := dif_neg h

/-- A position of a tile that is written back gets its lane's value (20_memory.md R92). -/
theorem tileStore_inside {α : Type} {w : Nat} (tile : Vcx8 α w) (sample : Nat → Cx α) (nio lh l0 p : Nat)
    (h : p % nio / 8 = lh ∧ l0 ≤ p / nio ∧ p / nio - l0 < w) :
    tileStore tile sample nio lh l0 p =
      vcxLane (tile[p % 8]'(Nat.mod_lt p (by decide))) ⟨p / nio - l0, h.2.2⟩ := dif_pos h

/-- Written back and read again, the rows of a transposed tile are the rows (40_lane_vector.md R124). -/
theorem transposeIn_transposeOut {α : Type} {w : Nat} (rows : Vector (Vector (Cx α) 8) w) :
    transposeIn (transposeOut rows) = rows := by
  refine Vector.ext fun i hi => Vector.ext fun q hq => ?_
  simp [transposeIn, transposeOut, vcxLane, vcxOfLanes]

/-! ### Pass 1 by PE, and the evaluation of the carry input -/

/-- A PE writes the rows it owns and leaves every other row (20_memory.md R90). -/
theorem pass1Pe_sample (l t pe : Nat) (f : Samples → Samples) (z : Samples) (k : Nat) (hk : k < nLen l) :
    sampleAt f64Arith (pass1Pe l t pe f z) k =
      if ownsRow l t pe (k / nio l) then sampleAt f64Arith (f z) k else sampleAt f64Arith z k := by
  rw [pass1Pe, sampleAt_tabulate, if_pos hk]

/-- Under EXACT every evaluation rounds a carry input to the integer the exact value rounds to
(42_passes.md R162, 92_eei_decisions.md D31). -/
theorem surdRound_inputOf (x : XEval) (b s : Nat) (re im : F64) :
    surdRound b (inputOf x true b s re im) = surdRound b (surdOfSample re im s) := by
  cases x
  · rfl
  · simp only [inputOf, heldInput, Bool.true_and, bne_iff_ne]
    split
    · rfl
    · next h => exact Classical.not_not.mp h

/-- Under EXACT the digits a carry or a decode rounds to do not depend on X_EVAL (42_passes.md R162). -/
theorem sampleRound_evaluatorOf (x : XEval) (y : SplitEval) (b s : Nat) (hi lo : F64) (z : Cx F64) :
    sampleRound (evaluatorOf x y true b hi lo) s z = sampleRound (exactEvaluator b) s z := by
  simp only [sampleRound, evaluatorOf, exactEvaluator, surdRound_inputOf]

/-! ### Rounded division -/

/-- The quotient rounded half away from zero leaves a remainder of at most half the divisor
(00_scope.md R19). -/
theorem roundDiv_spec (a : Int) (b : Nat) (hb : 0 < b) :
    -(b : Int) ≤ 2 * (a - roundDiv a b * b) ∧ 2 * (a - roundDiv a b * b) ≤ b := by
  have h1 := Nat.div_add_mod (2 * a.natAbs + b) (2 * b)
  have h2 := Nat.mod_lt (2 * a.natAbs + b) (show 0 < 2 * b by omega)
  unfold roundDiv
  set q := (2 * a.natAbs + b) / (2 * b)
  set r := (2 * a.natAbs + b) % (2 * b)
  have h3 : 2 * ((q : Int) * b) + r = 2 * a.natAbs + b := by
    have : ((2 * b * q + r : Nat) : Int) = (2 * a.natAbs + b : Nat) := by rw [h1]
    push_cast at this ⊢
    linarith
  split
  · have ha : (a.natAbs : Int) = -a := by omega
    constructor <;> nlinarith
  · have ha : (a.natAbs : Int) = a := by omega
    constructor <;> nlinarith

/-- SET's quotient leaves a remainder in (−b/2, b/2] (44_commands.md R192). -/
theorem balancedQuot_spec (y : Int) (b : Nat) (hb : 0 < b) :
    -(b : Int) < 2 * (y - balancedQuot y b * b) ∧ 2 * (y - balancedQuot y b * b) ≤ b := by
  have h1 := Int.emod_add_mul_ediv ((b : Int) - 2 * y) (2 * (b : Int))
  have h2 := Int.emod_nonneg ((b : Int) - 2 * y) (show 2 * (b : Int) ≠ 0 by omega)
  have h3 := Int.emod_lt_of_pos ((b : Int) - 2 * y) (show 0 < 2 * (b : Int) by omega)
  unfold balancedQuot
  set q := ((b : Int) - 2 * y) / (2 * (b : Int))
  constructor <;> nlinarith

/-! ### Digits -/

theorem digitSum_append (b : Nat) (xs ys : List Int) :
    digitSum b (xs ++ ys) = digitSum b xs + (b : Int) ^ xs.length * digitSum b ys := by
  induction xs with
  | nil => simp [digitSum]
  | cons x xs ih => simp only [List.cons_append, digitSum, ih, List.length_cons, pow_succ]; ring

/-- A carry step keeps its sum: the digit written and b times the carry passed on are the carry taken in
and g times the rounded carry input (42_passes.md R163). -/
theorem carryStep_sum (b g : Nat) (o f : Int) :
    (carryStep b g o f).1 + b * (carryStep b g o f).2 = f + g * o := by
  simp only [carryStep]
  ring

/-- The digit a carry step writes is at most b/2 in magnitude (42_passes.md R164). -/
theorem carryStep_digit (b g : Nat) (o f : Int) (hb : 0 < b) :
    -(b : Int) ≤ 2 * (carryStep b g o f).1 ∧ 2 * (carryStep b g o f).1 ≤ b :=
  roundDiv_spec _ b hb

theorem residueOf_lt (n : Nat) (v : Int) (hn : 0 < n) : residueOf n v < n := by
  have h1 := Int.emod_nonneg v (show (n : Int) ≠ 0 by omega)
  have h2 := Int.emod_lt_of_pos v (show 0 < (n : Int) by omega)
  unfold residueOf
  omega

theorem residueOf_cast (n : Nat) (v : Int) (hn : 0 < n) : (residueOf n v : Int) = v % n := by
  have h1 := Int.emod_nonneg v (show (n : Int) ≠ 0 by omega)
  unfold residueOf
  omega

/-! ### The integer square root -/

theorem isqrtBits_spec (n : Nat) : ∀ k acc, acc * acc ≤ n → n < (acc + 2 ^ k) * (acc + 2 ^ k) →
    isqrtBits n k acc * isqrtBits n k acc ≤ n ∧ n < (isqrtBits n k acc + 1) * (isqrtBits n k acc + 1) := by
  intro k
  induction k with
  | zero => intro acc h1 h2; exact ⟨h1, by simpa [isqrtBits] using h2⟩
  | succ k ih =>
    intro acc h1 h2
    simp only [isqrtBits]
    split
    · next h => exact ih _ h (by rw [Nat.add_assoc, ← Nat.two_mul, ← Nat.pow_succ']; exact h2)
    · next h => exact ih _ h1 (by omega)

/-- floor(√n): its square is at most n, and the next square is above it. -/
theorem isqrt_spec (n : Nat) : isqrt n * isqrt n ≤ n ∧ n < (isqrt n + 1) * (isqrt n + 1) := by
  refine isqrtBits_spec n _ 0 (by omega) ?_
  rw [Nat.zero_add, ← pow_add]
  by_cases h0 : n = 0
  · subst h0; exact Nat.pos_of_ne_zero (by positivity)
  · exact lt_of_lt_of_le ((Nat.log2_lt h0).mp (Nat.lt_succ_self _)) (Nat.pow_le_pow_right (by omega) (by omega))

end Sys2Proof.Machine
end

