-- ==== Sys2Proof/Laws/Encoding.lean ====
section
/-!
SUPPORT. The fields of a command word (30_encoding.md R96, R99).
-/

namespace Sys2Proof

/-- A command word as a number. -/
theorem commandWord_toNat {op dst src : Nat} (dup : Bool) (ho : op < 256) (hd : dst < 256) (hs : src < 256) :
    (commandWord op dst src dup).toNat = op + dst * 2 ^ 8 + src * 2 ^ 16 + dup.toNat * 2 ^ 24 := by
  have hu : dup.toNat < 2 := by cases dup <;> decide
  have key (a b i : Nat) (h : a < 2 ^ i) : (a ||| b <<< i) = a + b * 2 ^ i := by
    rw [Nat.or_comm, ← Nat.shiftLeft_add_eq_or_of_lt h, Nat.shiftLeft_eq, Nat.add_comm]
  simp only [commandWord, BitVec.toNat_or, BitVec.toNat_shiftLeft, BitVec.toNat_ofNat]
  have h1 : op % 2 ^ 32 = op := Nat.mod_eq_of_lt (by omega)
  have h2 : (dst % 2 ^ 32) <<< 8 % 2 ^ 32 = dst <<< 8 := by
    rw [Nat.mod_eq_of_lt (show dst < 2 ^ 32 by omega), Nat.shiftLeft_eq]
    exact Nat.mod_eq_of_lt (by omega)
  have h3 : (src % 2 ^ 32) <<< 16 % 2 ^ 32 = src <<< 16 := by
    rw [Nat.mod_eq_of_lt (show src < 2 ^ 32 by omega), Nat.shiftLeft_eq]
    exact Nat.mod_eq_of_lt (by omega)
  have h4 : (dup.toNat % 2 ^ 32) <<< 24 % 2 ^ 32 = dup.toNat <<< 24 := by
    rw [Nat.mod_eq_of_lt (show dup.toNat < 2 ^ 32 by omega), Nat.shiftLeft_eq]
    exact Nat.mod_eq_of_lt (by omega)
  rw [h1, h2, h3, h4, key op dst 8 (by omega), key _ src 16 (by omega), key _ dup.toNat 24 (by omega)]

theorem opField_commandWord {op dst src : Nat} (dup : Bool) (ho : op < 256) (hd : dst < 256)
    (hs : src < 256) : opField (commandWord op dst src dup) = op := by
  have hu : dup.toNat < 2 := by cases dup <;> decide
  simp only [opField, BitVec.extractLsb'_toNat, commandWord_toNat dup ho hd hs, Nat.shiftRight_eq_div_pow]
  omega

theorem dstField_commandWord {op dst src : Nat} (dup : Bool) (ho : op < 256) (hd : dst < 256)
    (hs : src < 256) : dstField (commandWord op dst src dup) = dst := by
  have hu : dup.toNat < 2 := by cases dup <;> decide
  simp only [dstField, BitVec.extractLsb'_toNat, commandWord_toNat dup ho hd hs, Nat.shiftRight_eq_div_pow]
  omega

theorem srcField_commandWord {op dst src : Nat} (dup : Bool) (ho : op < 256) (hd : dst < 256)
    (hs : src < 256) : srcField (commandWord op dst src dup) = src := by
  have hu : dup.toNat < 2 := by cases dup <;> decide
  simp only [srcField, BitVec.extractLsb'_toNat, commandWord_toNat dup ho hd hs, Nat.shiftRight_eq_div_pow]
  omega

theorem rsvField_commandWord {op dst src : Nat} (dup : Bool) (ho : op < 256) (hd : dst < 256)
    (hs : src < 256) : rsvField (commandWord op dst src dup) = 0 := by
  have hu : dup.toNat < 2 := by cases dup <;> decide
  simp only [rsvField, BitVec.extractLsb'_toNat, commandWord_toNat dup ho hd hs, Nat.shiftRight_eq_div_pow]
  omega

theorem dupField_commandWord {op dst src : Nat} (dup : Bool) (ho : op < 256) (hd : dst < 256)
    (hs : src < 256) : dupField (commandWord op dst src dup) = dup := by
  have hu : dup.toNat < 2 := by cases dup <;> decide
  have h : (commandWord op dst src dup).toNat / 2 ^ 24 % 2 = dup.toNat := by
    rw [commandWord_toNat dup ho hd hs]
    omega
  simp only [dupField, BitVec.getLsbD, Nat.testBit_eq_decide_div_mod_eq, h]
  cases dup <;> decide

end Sys2Proof
end

