-- ==== Sys2Proof/Laws/Memory.lean ====
section
/-!
SUPPORT. The arena: read after write, what a write leaves alone, and the canonical form
(20_memory.md R84, R88).
-/

namespace Sys2Proof.Machine

/-! ### Bytes -/

theorem lookup_filter_key (p : Nat → Bool) (m : Memory) (a : Nat) :
    (m.filter fun c => p c.1).lookup a = if p a then m.lookup a else none := by
  induction m with
  | nil => simp
  | cons c m ih =>
    obtain ⟨k, v⟩ := c
    by_cases hk : a = k
    · subst hk
      by_cases hp : p a <;> simp [hp, ih]
    · have hne : (a == k) = false := by simpa using hk
      by_cases hp : p k <;> simp [hp, List.lookup_cons, hne, ih]

theorem lookup_cellsFrom (a : Nat) (bs : List Byte) (x : Nat) :
    (cellsFrom a bs).lookup x = if a ≤ x then bs[x - a]? else none := by
  induction bs generalizing a with
  | nil => simp [cellsFrom]
  | cons y ys ih =>
    rw [cellsFrom, List.lookup_cons]
    by_cases hx : x = a
    · simp [hx]
    · have hne : (x == a) = false := by simpa using hx
      simp only [hne, ih]
      by_cases hle : a ≤ x
      · have h1 : a + 1 ≤ x := by omega
        have h2 : x - a = (x - (a + 1)) + 1 := by omega
        simp [hle, h1, h2]
      · have h1 : ¬ a + 1 ≤ x := by omega
        simp [hle, h1]

/-- A write of bytes, seen through a read: the written bytes inside, the old ones outside. -/
theorem memRead_memWriteBytes (m : Memory) (a : Nat) (bs : List Byte) (x : Nat) :
    memRead (memWriteBytes m a bs) x =
      if a ≤ x ∧ x < a + bs.length then bs[x - a]? else memRead m x := by
  simp only [memRead, memWriteBytes, List.lookup_append,
    lookup_filter_key (fun k => decide (k < a)), lookup_filter_key (fun k => decide (a + bs.length ≤ k)),
    lookup_cellsFrom]
  by_cases h1 : a ≤ x
  · by_cases h2 : x < a + bs.length
    · have h3 : x - a < bs.length := by omega
      have h4 : ¬ x < a := by omega
      have h5 : ¬ a + bs.length ≤ x := by omega
      simp [h1, h2, h4, h5]
    · have h3 : bs.length ≤ x - a := by omega
      have h4 : ¬ x < a := by omega
      have h5 : a + bs.length ≤ x := by omega
      simp [h1, h2, h4, h5, List.getElem?_eq_none h3]
  · have h4 : x < a := by omega
    have h5 : ¬ a + bs.length ≤ x := by omega
    simp [h1, h4, h5]

theorem mem_cellsFrom {a : Nat} {bs : List Byte} {k : Nat}
    (h : k ∈ (cellsFrom a bs).map Prod.fst) : a ≤ k ∧ k < a + bs.length := by
  induction bs generalizing a with
  | nil => simp [cellsFrom] at h
  | cons y ys ih =>
    simp only [cellsFrom, List.map_cons, List.mem_cons] at h
    rcases h with rfl | h
    · simp
    · have := ih h
      simp only [List.length_cons]
      omega

theorem cellsFrom_wf (a : Nat) (bs : List Byte) : Memory.wf (cellsFrom a bs) := by
  induction bs generalizing a with
  | nil => exact List.Pairwise.nil
  | cons y ys ih =>
    simp only [Memory.wf, cellsFrom, List.map_cons, List.pairwise_cons]
    exact ⟨fun k hk => by have := mem_cellsFrom hk; omega, ih (a + 1)⟩

theorem wf_filter {m : Memory} (p : Nat → Bool) (h : m.wf) : Memory.wf (m.filter fun c => p c.1) :=
  List.Pairwise.sublist (List.filter_sublist.map Prod.fst) h

theorem mem_keys_filter {m : Memory} (p : Nat → Bool) {k : Nat}
    (h : k ∈ (m.filter fun c => p c.1).map Prod.fst) : p k = true := by
  obtain ⟨c, hc, rfl⟩ := List.mem_map.mp h
  exact (List.mem_filter.mp hc).2

/-- Every write keeps the canonical form. -/
theorem memWriteBytes_wf {m : Memory} (h : m.wf) (a : Nat) (bs : List Byte) :
    (memWriteBytes m a bs).wf := by
  have h1 := wf_filter (fun k => decide (k < a)) h
  have h3 := wf_filter (fun k => decide (a + bs.length ≤ k)) h
  simp only [Memory.wf, memWriteBytes, List.map_append, List.pairwise_append]
  refine ⟨⟨h1, cellsFrom_wf a bs, ?_⟩, h3, ?_⟩
  · intro x hx y hy
    have := mem_keys_filter (fun k => decide (k < a)) hx
    have := mem_cellsFrom hy
    simp only [decide_eq_true_eq] at *
    omega
  · intro x hx y hy
    have hy' := mem_keys_filter (fun k => decide (a + bs.length ≤ k)) hy
    simp only [decide_eq_true_eq] at hy'
    rcases List.mem_append.mp hx with hx | hx
    · have hx' := mem_keys_filter (fun k => decide (k < a)) hx
      simp only [decide_eq_true_eq] at hx'
      omega
    · have := mem_cellsFrom hx
      omega

/-- Reset's memory has the canonical form. -/
theorem reset_arena_wf : State.reset.arena.wf := List.Pairwise.nil

/-! ### Words -/

theorem wordBytes_length (w : DWord) : (wordBytes w).length = 8 := by simp [wordBytes]

theorem wordBytes_getElem? (w : DWord) (i : Nat) (h : i < 8) :
    (wordBytes w)[i]? = some (w.extractLsb' (8 * i) 8) := by
  simp [wordBytes, h]

/-- A word is made of its eight bytes. -/
theorem join_wordBytes (w : DWord) :
    (w.extractLsb' 56 8 ++ w.extractLsb' 48 8 ++ w.extractLsb' 40 8 ++ w.extractLsb' 32 8 ++
      w.extractLsb' 24 8 ++ w.extractLsb' 16 8 ++ w.extractLsb' 8 8 ++ w.extractLsb' 0 8 : DWord) = w := by
  have key (h x : Nat) : (h <<< 8 ||| x % 2 ^ 8) = h * 256 + x % 256 := by
    rw [← Nat.shiftLeft_add_eq_or_of_lt (Nat.mod_lt _ (Nat.two_pow_pos 8)), Nat.shiftLeft_eq]
  refine BitVec.eq_of_toNat_eq ?_
  have hw := w.isLt
  simp only [BitVec.toNat_append, BitVec.extractLsb'_toNat, Nat.shiftRight_eq_div_pow, key]
  omega

/-- The word read where a word was written, whatever lay there. -/
theorem arenaWord_of_bytes {s : State} {a : Nat} {w : DWord}
    (h : ∀ i, i < 8 → arenaByte s (a + i) = w.extractLsb' (8 * i) 8) : arenaWord s a = w := by
  have h0 := h 0 (by omega)
  rw [Nat.add_zero] at h0
  rw [arenaWord, h 7 (by omega), h 6 (by omega), h 5 (by omega), h 4 (by omega), h 3 (by omega),
    h 2 (by omega), h 1 (by omega), h0]
  exact join_wordBytes w

/-- A word none of whose bytes changed reads as before. -/
theorem arenaWord_congr {s t : State} {a : Nat}
    (h : ∀ i, i < 8 → arenaByte t (a + i) = arenaByte s (a + i)) : arenaWord t a = arenaWord s a := by
  have h0 := h 0 (by omega)
  rw [Nat.add_zero] at h0
  rw [arenaWord, arenaWord, h 7 (by omega), h 6 (by omega), h 5 (by omega), h 4 (by omega),
    h 3 (by omega), h 2 (by omega), h 1 (by omega), h0]

/-! ### Images -/

theorem flatMap_wordBytes_length (f : Nat → DWord) (ws : List Nat) :
    (ws.flatMap fun w => wordBytes (f w)).length = 8 * ws.length := by
  induction ws with
  | nil => rfl
  | cons w ws ih => simp only [List.flatMap_cons, List.length_append, wordBytes_length, ih, List.length_cons]; omega

theorem flatMap_wordBytes_getElem? (f : Nat → DWord) (ws : List Nat) (k i : Nat) (hk : k < ws.length)
    (hi : i < 8) :
    (ws.flatMap fun w => wordBytes (f w))[8 * k + i]? = some ((f ws[k]).extractLsb' (8 * i) 8) := by
  induction ws generalizing k with
  | nil => simp at hk
  | cons w ws ih =>
    rw [List.flatMap_cons]
    cases k with
    | zero =>
      rw [List.getElem?_append_left (by rw [wordBytes_length]; omega)]
      simpa using wordBytes_getElem? (f w) i hi
    | succ k =>
      rw [List.getElem?_append_right (by rw [wordBytes_length]; omega), wordBytes_length,
        show 8 * (k + 1) + i - 8 = 8 * k + i by omega]
      simpa using ih k (by simpa using hk)

/-- An image takes the bytes of its view. -/
theorem imageBytes_length (l : Nat) (f : Nat → DWord) : (imageBytes l f).length = imageBytesOf l := by
  rw [imageBytes, flatMap_wordBytes_length, List.length_range, rawWordsOf, imageBytesOf]
  omega

theorem imageBytes_getElem? (l : Nat) (f : Nat → DWord) (w i : Nat) (hw : w < rawWordsOf l) (hi : i < 8) :
    (imageBytes l f)[8 * w + i]? = some ((f w).extractLsb' (8 * i) 8) := by
  rw [imageBytes, flatMap_wordBytes_getElem? f _ w i (by simpa using hw) hi]
  simp

/-- A state that differs from `s` in the arena by one image write, and not in the epoch, reads the
image's words there. -/
theorem imgWord_of_write {s t : State} {l : Nat} {j : RegId} {f : Nat → DWord}
    (ht : t.arena = memWriteBytes s.arena (imageBase l j) (imageBytes l f)) {w : Nat}
    (hw : w < rawWordsOf l) : imgWord t l j w = f w := by
  refine arenaWord_of_bytes fun i hi => ?_
  have hlen := imageBytes_length l f
  have hw' : 8 * w + i < imageBytesOf l := by
    rw [rawWordsOf] at hw
    rw [imageBytesOf]
    omega
  rw [arenaByte, ht, memRead_memWriteBytes, hlen, if_pos (by omega),
    show imageBase l j + 8 * w + i - imageBase l j = 8 * w + i by omega, imageBytes_getElem? l f w i hw hi]
  rfl

/-- Every byte outside a write reads as before. -/
theorem arenaByte_of_write {s t : State} {a : Nat} {bs : List Byte} (he : t.epoch = s.epoch)
    (ht : t.arena = memWriteBytes s.arena a bs) {x : Nat} (hx : x < a ∨ a + bs.length ≤ x) :
    arenaByte t x = arenaByte s x := by
  rw [arenaByte, arenaByte, ht, he, memRead_memWriteBytes, if_neg (by omega)]

end Sys2Proof.Machine
end

