-- ==== Sys2Proof/Laws/State.lean ====
section
/-!
SUPPORT. One lemma per field for each shared update of the state: what it writes and what it leaves.
-/

namespace Sys2Proof.Machine

/-! ### complete -/

@[simp] theorem complete_ie (code : ErrCode) (s : State) : (complete code s).ie = s.ie := rfl
@[simp] theorem complete_busy (code : ErrCode) (s : State) : (complete code s).busy = false := rfl
@[simp] theorem complete_done (code : ErrCode) (s : State) : (complete code s).done = true := rfl
@[simp] theorem complete_cmdOvf (code : ErrCode) (s : State) :
    (complete code s).cmdOvf = s.cmdOvf := rfl
@[simp] theorem complete_errCode (code : ErrCode) (s : State) :
    (complete code s).errCode = code := rfl
@[simp] theorem complete_engine (code : ErrCode) (s : State) :
    (complete code s).engine = s.engine := rfl
@[simp] theorem complete_pwarn (code : ErrCode) (s : State) :
    (complete code s).pwarn = s.pwarn := rfl
@[simp] theorem complete_unrec (code : ErrCode) (s : State) :
    (complete code s).unrec = s.unrec := rfl
@[simp] theorem complete_one (code : ErrCode) (s : State) : (complete code s).one = s.one := rfl
@[simp] theorem complete_m1 (code : ErrCode) (s : State) : (complete code s).m1 = s.m1 := rfl
@[simp] theorem complete_dvalid (code : ErrCode) (s : State) :
    (complete code s).dvalid = s.dvalid := rfl
@[simp] theorem complete_cmdLat (code : ErrCode) (s : State) :
    (complete code s).cmdLat = s.cmdLat := rfl
@[simp] theorem complete_cfgB (code : ErrCode) (s : State) : (complete code s).cfgB = s.cfgB := rfl
@[simp] theorem complete_cfgSize (code : ErrCode) (s : State) :
    (complete code s).cfgSize = s.cfgSize := rfl
@[simp] theorem complete_arg (code : ErrCode) (s : State) : (complete code s).arg = s.arg := rfl
@[simp] theorem complete_err (code : ErrCode) (s : State) : (complete code s).err = s.err := rfl
@[simp] theorem complete_maxErr (code : ErrCode) (s : State) :
    (complete code s).maxErr = s.maxErr := rfl
@[simp] theorem complete_thresh (code : ErrCode) (s : State) :
    (complete code s).thresh = s.thresh := rfl
@[simp] theorem complete_fp (code : ErrCode) (s : State) : (complete code s).fp = s.fp := rfl
@[simp] theorem complete_digIdx (code : ErrCode) (s : State) :
    (complete code s).digIdx = s.digIdx := rfl
@[simp] theorem complete_rawSel (code : ErrCode) (s : State) :
    (complete code s).rawSel = s.rawSel := rfl
@[simp] theorem complete_rawIdx (code : ErrCode) (s : State) :
    (complete code s).rawIdx = s.rawIdx := rfl
@[simp] theorem complete_rawLatch (code : ErrCode) (s : State) :
    (complete code s).rawLatch = s.rawLatch := rfl
@[simp] theorem complete_rawHold (code : ErrCode) (s : State) :
    (complete code s).rawHold = s.rawHold := rfl
@[simp] theorem complete_cfgLatB (code : ErrCode) (s : State) :
    (complete code s).cfgLatB = s.cfgLatB := rfl
@[simp] theorem complete_cfgLatSize (code : ErrCode) (s : State) :
    (complete code s).cfgLatSize = s.cfgLatSize := rfl
@[simp] theorem complete_argLat (code : ErrCode) (s : State) :
    (complete code s).argLat = s.argLat := rfl
@[simp] theorem complete_threshLat (code : ErrCode) (s : State) :
    (complete code s).threshLat = s.threshLat := rfl
@[simp] theorem complete_regs (code : ErrCode) (s : State) : (complete code s).regs = s.regs := rfl
@[simp] theorem complete_sbHi (code : ErrCode) (s : State) : (complete code s).sbHi = s.sbHi := rfl
@[simp] theorem complete_sbLo (code : ErrCode) (s : State) : (complete code s).sbLo = s.sbLo := rfl
@[simp] theorem complete_arena (code : ErrCode) (s : State) :
    (complete code s).arena = s.arena := rfl
@[simp] theorem complete_digits (code : ErrCode) (s : State) :
    (complete code s).digits = s.digits := rfl
@[simp] theorem complete_carry (code : ErrCode) (s : State) :
    (complete code s).carry = s.carry := rfl
@[simp] theorem complete_errAcc (code : ErrCode) (s : State) :
    (complete code s).errAcc = s.errAcc := rfl
@[simp] theorem complete_resetIn (code : ErrCode) (s : State) :
    (complete code s).resetIn = s.resetIn := rfl
@[simp] theorem complete_remaining (code : ErrCode) (s : State) :
    (complete code s).remaining = s.remaining := rfl
@[simp] theorem complete_inputs (code : ErrCode) (s : State) :
    (complete code s).inputs = s.inputs := rfl
@[simp] theorem complete_answers (code : ErrCode) (s : State) :
    (complete code s).answers = s.answers := rfl
@[simp] theorem complete_draw (code : ErrCode) (s : State) :
    (complete code s).draw = s.draw + 1 := rfl
@[simp] theorem complete_epoch (code : ErrCode) (s : State) :
    (complete code s).epoch = s.epoch := rfl
@[simp] theorem complete_imageLog (code : ErrCode) (s : State) :
    (complete code s).imageLog = s.imageLog := rfl

/-! ### setPhase -/

@[simp] theorem setPhase_ie (s : State) (c : ActiveCfg) (p : Phase) :
    (setPhase s c p).ie = s.ie := rfl
@[simp] theorem setPhase_busy (s : State) (c : ActiveCfg) (p : Phase) :
    (setPhase s c p).busy = s.busy := rfl
@[simp] theorem setPhase_done (s : State) (c : ActiveCfg) (p : Phase) :
    (setPhase s c p).done = s.done := rfl
@[simp] theorem setPhase_cmdOvf (s : State) (c : ActiveCfg) (p : Phase) :
    (setPhase s c p).cmdOvf = s.cmdOvf := rfl
@[simp] theorem setPhase_errCode (s : State) (c : ActiveCfg) (p : Phase) :
    (setPhase s c p).errCode = s.errCode := rfl
@[simp] theorem setPhase_engine (s : State) (c : ActiveCfg) (p : Phase) :
    (setPhase s c p).engine = .configured c p := rfl
@[simp] theorem setPhase_pwarn (s : State) (c : ActiveCfg) (p : Phase) :
    (setPhase s c p).pwarn = s.pwarn := rfl
@[simp] theorem setPhase_unrec (s : State) (c : ActiveCfg) (p : Phase) :
    (setPhase s c p).unrec = s.unrec := rfl
@[simp] theorem setPhase_one (s : State) (c : ActiveCfg) (p : Phase) :
    (setPhase s c p).one = s.one := rfl
@[simp] theorem setPhase_m1 (s : State) (c : ActiveCfg) (p : Phase) :
    (setPhase s c p).m1 = s.m1 := rfl
@[simp] theorem setPhase_dvalid (s : State) (c : ActiveCfg) (p : Phase) :
    (setPhase s c p).dvalid = s.dvalid := rfl
@[simp] theorem setPhase_cmdLat (s : State) (c : ActiveCfg) (p : Phase) :
    (setPhase s c p).cmdLat = s.cmdLat := rfl
@[simp] theorem setPhase_cfgB (s : State) (c : ActiveCfg) (p : Phase) :
    (setPhase s c p).cfgB = s.cfgB := rfl
@[simp] theorem setPhase_cfgSize (s : State) (c : ActiveCfg) (p : Phase) :
    (setPhase s c p).cfgSize = s.cfgSize := rfl
@[simp] theorem setPhase_arg (s : State) (c : ActiveCfg) (p : Phase) :
    (setPhase s c p).arg = s.arg := rfl
@[simp] theorem setPhase_err (s : State) (c : ActiveCfg) (p : Phase) :
    (setPhase s c p).err = s.err := rfl
@[simp] theorem setPhase_maxErr (s : State) (c : ActiveCfg) (p : Phase) :
    (setPhase s c p).maxErr = s.maxErr := rfl
@[simp] theorem setPhase_thresh (s : State) (c : ActiveCfg) (p : Phase) :
    (setPhase s c p).thresh = s.thresh := rfl
@[simp] theorem setPhase_fp (s : State) (c : ActiveCfg) (p : Phase) :
    (setPhase s c p).fp = s.fp := rfl
@[simp] theorem setPhase_digIdx (s : State) (c : ActiveCfg) (p : Phase) :
    (setPhase s c p).digIdx = s.digIdx := rfl
@[simp] theorem setPhase_rawSel (s : State) (c : ActiveCfg) (p : Phase) :
    (setPhase s c p).rawSel = s.rawSel := rfl
@[simp] theorem setPhase_rawIdx (s : State) (c : ActiveCfg) (p : Phase) :
    (setPhase s c p).rawIdx = s.rawIdx := rfl
@[simp] theorem setPhase_rawLatch (s : State) (c : ActiveCfg) (p : Phase) :
    (setPhase s c p).rawLatch = s.rawLatch := rfl
@[simp] theorem setPhase_rawHold (s : State) (c : ActiveCfg) (p : Phase) :
    (setPhase s c p).rawHold = s.rawHold := rfl
@[simp] theorem setPhase_cfgLatB (s : State) (c : ActiveCfg) (p : Phase) :
    (setPhase s c p).cfgLatB = s.cfgLatB := rfl
@[simp] theorem setPhase_cfgLatSize (s : State) (c : ActiveCfg) (p : Phase) :
    (setPhase s c p).cfgLatSize = s.cfgLatSize := rfl
@[simp] theorem setPhase_argLat (s : State) (c : ActiveCfg) (p : Phase) :
    (setPhase s c p).argLat = s.argLat := rfl
@[simp] theorem setPhase_threshLat (s : State) (c : ActiveCfg) (p : Phase) :
    (setPhase s c p).threshLat = s.threshLat := rfl
@[simp] theorem setPhase_regs (s : State) (c : ActiveCfg) (p : Phase) :
    (setPhase s c p).regs = s.regs := rfl
@[simp] theorem setPhase_sbHi (s : State) (c : ActiveCfg) (p : Phase) :
    (setPhase s c p).sbHi = s.sbHi := rfl
@[simp] theorem setPhase_sbLo (s : State) (c : ActiveCfg) (p : Phase) :
    (setPhase s c p).sbLo = s.sbLo := rfl
@[simp] theorem setPhase_arena (s : State) (c : ActiveCfg) (p : Phase) :
    (setPhase s c p).arena = s.arena := rfl
@[simp] theorem setPhase_digits (s : State) (c : ActiveCfg) (p : Phase) :
    (setPhase s c p).digits = s.digits := rfl
@[simp] theorem setPhase_carry (s : State) (c : ActiveCfg) (p : Phase) :
    (setPhase s c p).carry = s.carry := rfl
@[simp] theorem setPhase_errAcc (s : State) (c : ActiveCfg) (p : Phase) :
    (setPhase s c p).errAcc = s.errAcc := rfl
@[simp] theorem setPhase_resetIn (s : State) (c : ActiveCfg) (p : Phase) :
    (setPhase s c p).resetIn = s.resetIn := rfl
@[simp] theorem setPhase_remaining (s : State) (c : ActiveCfg) (p : Phase) :
    (setPhase s c p).remaining = s.remaining := rfl
@[simp] theorem setPhase_inputs (s : State) (c : ActiveCfg) (p : Phase) :
    (setPhase s c p).inputs = s.inputs := rfl
@[simp] theorem setPhase_answers (s : State) (c : ActiveCfg) (p : Phase) :
    (setPhase s c p).answers = s.answers := rfl
@[simp] theorem setPhase_draw (s : State) (c : ActiveCfg) (p : Phase) :
    (setPhase s c p).draw = s.draw := rfl
@[simp] theorem setPhase_epoch (s : State) (c : ActiveCfg) (p : Phase) :
    (setPhase s c p).epoch = s.epoch := rfl
@[simp] theorem setPhase_imageLog (s : State) (c : ActiveCfg) (p : Phase) :
    (setPhase s c p).imageLog = s.imageLog := rfl

/-! ### putImage -/

@[simp] theorem putImage_ie (s : State) (c : ActiveCfg) (j : RegId) (v : Nat) (f : Nat → DWord) :
    (putImage s c j v f).ie = s.ie := rfl
@[simp] theorem putImage_busy (s : State) (c : ActiveCfg) (j : RegId) (v : Nat) (f : Nat → DWord) :
    (putImage s c j v f).busy = s.busy := rfl
@[simp] theorem putImage_done (s : State) (c : ActiveCfg) (j : RegId) (v : Nat) (f : Nat → DWord) :
    (putImage s c j v f).done = s.done := rfl
@[simp] theorem putImage_cmdOvf (s : State) (c : ActiveCfg) (j : RegId) (v : Nat) (f : Nat → DWord) :
    (putImage s c j v f).cmdOvf = s.cmdOvf := rfl
@[simp] theorem putImage_errCode (s : State) (c : ActiveCfg) (j : RegId) (v : Nat) (f : Nat → DWord) :
    (putImage s c j v f).errCode = s.errCode := rfl
@[simp] theorem putImage_engine (s : State) (c : ActiveCfg) (j : RegId) (v : Nat) (f : Nat → DWord) :
    (putImage s c j v f).engine = s.engine := rfl
@[simp] theorem putImage_pwarn (s : State) (c : ActiveCfg) (j : RegId) (v : Nat) (f : Nat → DWord) :
    (putImage s c j v f).pwarn = s.pwarn := rfl
@[simp] theorem putImage_unrec (s : State) (c : ActiveCfg) (j : RegId) (v : Nat) (f : Nat → DWord) :
    (putImage s c j v f).unrec = s.unrec := rfl
@[simp] theorem putImage_one (s : State) (c : ActiveCfg) (j : RegId) (v : Nat) (f : Nat → DWord) :
    (putImage s c j v f).one = s.one := rfl
@[simp] theorem putImage_m1 (s : State) (c : ActiveCfg) (j : RegId) (v : Nat) (f : Nat → DWord) :
    (putImage s c j v f).m1 = s.m1 := rfl
@[simp] theorem putImage_dvalid (s : State) (c : ActiveCfg) (j : RegId) (v : Nat) (f : Nat → DWord) :
    (putImage s c j v f).dvalid = s.dvalid := rfl
@[simp] theorem putImage_cmdLat (s : State) (c : ActiveCfg) (j : RegId) (v : Nat) (f : Nat → DWord) :
    (putImage s c j v f).cmdLat = s.cmdLat := rfl
@[simp] theorem putImage_cfgB (s : State) (c : ActiveCfg) (j : RegId) (v : Nat) (f : Nat → DWord) :
    (putImage s c j v f).cfgB = s.cfgB := rfl
@[simp] theorem putImage_cfgSize (s : State) (c : ActiveCfg) (j : RegId) (v : Nat) (f : Nat → DWord) :
    (putImage s c j v f).cfgSize = s.cfgSize := rfl
@[simp] theorem putImage_arg (s : State) (c : ActiveCfg) (j : RegId) (v : Nat) (f : Nat → DWord) :
    (putImage s c j v f).arg = s.arg := rfl
@[simp] theorem putImage_err (s : State) (c : ActiveCfg) (j : RegId) (v : Nat) (f : Nat → DWord) :
    (putImage s c j v f).err = s.err := rfl
@[simp] theorem putImage_maxErr (s : State) (c : ActiveCfg) (j : RegId) (v : Nat) (f : Nat → DWord) :
    (putImage s c j v f).maxErr = s.maxErr := rfl
@[simp] theorem putImage_thresh (s : State) (c : ActiveCfg) (j : RegId) (v : Nat) (f : Nat → DWord) :
    (putImage s c j v f).thresh = s.thresh := rfl
@[simp] theorem putImage_fp (s : State) (c : ActiveCfg) (j : RegId) (v : Nat) (f : Nat → DWord) :
    (putImage s c j v f).fp = s.fp := rfl
@[simp] theorem putImage_digIdx (s : State) (c : ActiveCfg) (j : RegId) (v : Nat) (f : Nat → DWord) :
    (putImage s c j v f).digIdx = s.digIdx := rfl
@[simp] theorem putImage_rawSel (s : State) (c : ActiveCfg) (j : RegId) (v : Nat) (f : Nat → DWord) :
    (putImage s c j v f).rawSel = s.rawSel := rfl
@[simp] theorem putImage_rawIdx (s : State) (c : ActiveCfg) (j : RegId) (v : Nat) (f : Nat → DWord) :
    (putImage s c j v f).rawIdx = s.rawIdx := rfl
@[simp] theorem putImage_rawLatch (s : State) (c : ActiveCfg) (j : RegId) (v : Nat) (f : Nat → DWord) :
    (putImage s c j v f).rawLatch = s.rawLatch := rfl
@[simp] theorem putImage_rawHold (s : State) (c : ActiveCfg) (j : RegId) (v : Nat) (f : Nat → DWord) :
    (putImage s c j v f).rawHold = s.rawHold := rfl
@[simp] theorem putImage_cfgLatB (s : State) (c : ActiveCfg) (j : RegId) (v : Nat) (f : Nat → DWord) :
    (putImage s c j v f).cfgLatB = s.cfgLatB := rfl
@[simp] theorem putImage_cfgLatSize (s : State) (c : ActiveCfg) (j : RegId) (v : Nat) (f : Nat → DWord) :
    (putImage s c j v f).cfgLatSize = s.cfgLatSize := rfl
@[simp] theorem putImage_argLat (s : State) (c : ActiveCfg) (j : RegId) (v : Nat) (f : Nat → DWord) :
    (putImage s c j v f).argLat = s.argLat := rfl
@[simp] theorem putImage_threshLat (s : State) (c : ActiveCfg) (j : RegId) (v : Nat) (f : Nat → DWord) :
    (putImage s c j v f).threshLat = s.threshLat := rfl
@[simp] theorem putImage_regs (s : State) (c : ActiveCfg) (j : RegId) (v : Nat) (f : Nat → DWord) :
    (putImage s c j v f).regs = s.regs.set j (some v) := rfl
@[simp] theorem putImage_sbHi (s : State) (c : ActiveCfg) (j : RegId) (v : Nat) (f : Nat → DWord) :
    (putImage s c j v f).sbHi = s.sbHi := rfl
@[simp] theorem putImage_sbLo (s : State) (c : ActiveCfg) (j : RegId) (v : Nat) (f : Nat → DWord) :
    (putImage s c j v f).sbLo = s.sbLo := rfl
@[simp] theorem putImage_arena (s : State) (c : ActiveCfg) (j : RegId) (v : Nat) (f : Nat → DWord) :
    (putImage s c j v f).arena = memWriteBytes s.arena (imageBase (cfgL c) j) (imageBytes (cfgL c) f) := rfl
@[simp] theorem putImage_digits (s : State) (c : ActiveCfg) (j : RegId) (v : Nat) (f : Nat → DWord) :
    (putImage s c j v f).digits = s.digits := rfl
@[simp] theorem putImage_carry (s : State) (c : ActiveCfg) (j : RegId) (v : Nat) (f : Nat → DWord) :
    (putImage s c j v f).carry = s.carry := rfl
@[simp] theorem putImage_errAcc (s : State) (c : ActiveCfg) (j : RegId) (v : Nat) (f : Nat → DWord) :
    (putImage s c j v f).errAcc = s.errAcc := rfl
@[simp] theorem putImage_resetIn (s : State) (c : ActiveCfg) (j : RegId) (v : Nat) (f : Nat → DWord) :
    (putImage s c j v f).resetIn = s.resetIn := rfl
@[simp] theorem putImage_remaining (s : State) (c : ActiveCfg) (j : RegId) (v : Nat) (f : Nat → DWord) :
    (putImage s c j v f).remaining = s.remaining := rfl
@[simp] theorem putImage_inputs (s : State) (c : ActiveCfg) (j : RegId) (v : Nat) (f : Nat → DWord) :
    (putImage s c j v f).inputs = s.inputs := rfl
@[simp] theorem putImage_answers (s : State) (c : ActiveCfg) (j : RegId) (v : Nat) (f : Nat → DWord) :
    (putImage s c j v f).answers = s.answers := rfl
@[simp] theorem putImage_draw (s : State) (c : ActiveCfg) (j : RegId) (v : Nat) (f : Nat → DWord) :
    (putImage s c j v f).draw = s.draw := rfl
@[simp] theorem putImage_epoch (s : State) (c : ActiveCfg) (j : RegId) (v : Nat) (f : Nat → DWord) :
    (putImage s c j v f).epoch = s.epoch := rfl
@[simp] theorem putImage_imageLog (s : State) (c : ActiveCfg) (j : RegId) (v : Nat) (f : Nat → DWord) :
    (putImage s c j v f).imageLog = ⟨c, j == regM, sampleWords (cfgL c) f, v⟩ :: s.imageLog := rfl

/-! ### putScratch -/

@[simp] theorem putScratch_ie (s : State) (c : ActiveCfg) (f : Nat → DWord) :
    (putScratch s c f).ie = s.ie := rfl
@[simp] theorem putScratch_busy (s : State) (c : ActiveCfg) (f : Nat → DWord) :
    (putScratch s c f).busy = s.busy := rfl
@[simp] theorem putScratch_done (s : State) (c : ActiveCfg) (f : Nat → DWord) :
    (putScratch s c f).done = s.done := rfl
@[simp] theorem putScratch_cmdOvf (s : State) (c : ActiveCfg) (f : Nat → DWord) :
    (putScratch s c f).cmdOvf = s.cmdOvf := rfl
@[simp] theorem putScratch_errCode (s : State) (c : ActiveCfg) (f : Nat → DWord) :
    (putScratch s c f).errCode = s.errCode := rfl
@[simp] theorem putScratch_engine (s : State) (c : ActiveCfg) (f : Nat → DWord) :
    (putScratch s c f).engine = s.engine := rfl
@[simp] theorem putScratch_pwarn (s : State) (c : ActiveCfg) (f : Nat → DWord) :
    (putScratch s c f).pwarn = s.pwarn := rfl
@[simp] theorem putScratch_unrec (s : State) (c : ActiveCfg) (f : Nat → DWord) :
    (putScratch s c f).unrec = s.unrec := rfl
@[simp] theorem putScratch_one (s : State) (c : ActiveCfg) (f : Nat → DWord) :
    (putScratch s c f).one = s.one := rfl
@[simp] theorem putScratch_m1 (s : State) (c : ActiveCfg) (f : Nat → DWord) :
    (putScratch s c f).m1 = s.m1 := rfl
@[simp] theorem putScratch_dvalid (s : State) (c : ActiveCfg) (f : Nat → DWord) :
    (putScratch s c f).dvalid = s.dvalid := rfl
@[simp] theorem putScratch_cmdLat (s : State) (c : ActiveCfg) (f : Nat → DWord) :
    (putScratch s c f).cmdLat = s.cmdLat := rfl
@[simp] theorem putScratch_cfgB (s : State) (c : ActiveCfg) (f : Nat → DWord) :
    (putScratch s c f).cfgB = s.cfgB := rfl
@[simp] theorem putScratch_cfgSize (s : State) (c : ActiveCfg) (f : Nat → DWord) :
    (putScratch s c f).cfgSize = s.cfgSize := rfl
@[simp] theorem putScratch_arg (s : State) (c : ActiveCfg) (f : Nat → DWord) :
    (putScratch s c f).arg = s.arg := rfl
@[simp] theorem putScratch_err (s : State) (c : ActiveCfg) (f : Nat → DWord) :
    (putScratch s c f).err = s.err := rfl
@[simp] theorem putScratch_maxErr (s : State) (c : ActiveCfg) (f : Nat → DWord) :
    (putScratch s c f).maxErr = s.maxErr := rfl
@[simp] theorem putScratch_thresh (s : State) (c : ActiveCfg) (f : Nat → DWord) :
    (putScratch s c f).thresh = s.thresh := rfl
@[simp] theorem putScratch_fp (s : State) (c : ActiveCfg) (f : Nat → DWord) :
    (putScratch s c f).fp = s.fp := rfl
@[simp] theorem putScratch_digIdx (s : State) (c : ActiveCfg) (f : Nat → DWord) :
    (putScratch s c f).digIdx = s.digIdx := rfl
@[simp] theorem putScratch_rawSel (s : State) (c : ActiveCfg) (f : Nat → DWord) :
    (putScratch s c f).rawSel = s.rawSel := rfl
@[simp] theorem putScratch_rawIdx (s : State) (c : ActiveCfg) (f : Nat → DWord) :
    (putScratch s c f).rawIdx = s.rawIdx := rfl
@[simp] theorem putScratch_rawLatch (s : State) (c : ActiveCfg) (f : Nat → DWord) :
    (putScratch s c f).rawLatch = s.rawLatch := rfl
@[simp] theorem putScratch_rawHold (s : State) (c : ActiveCfg) (f : Nat → DWord) :
    (putScratch s c f).rawHold = s.rawHold := rfl
@[simp] theorem putScratch_cfgLatB (s : State) (c : ActiveCfg) (f : Nat → DWord) :
    (putScratch s c f).cfgLatB = s.cfgLatB := rfl
@[simp] theorem putScratch_cfgLatSize (s : State) (c : ActiveCfg) (f : Nat → DWord) :
    (putScratch s c f).cfgLatSize = s.cfgLatSize := rfl
@[simp] theorem putScratch_argLat (s : State) (c : ActiveCfg) (f : Nat → DWord) :
    (putScratch s c f).argLat = s.argLat := rfl
@[simp] theorem putScratch_threshLat (s : State) (c : ActiveCfg) (f : Nat → DWord) :
    (putScratch s c f).threshLat = s.threshLat := rfl
@[simp] theorem putScratch_regs (s : State) (c : ActiveCfg) (f : Nat → DWord) :
    (putScratch s c f).regs = s.regs := rfl
@[simp] theorem putScratch_sbHi (s : State) (c : ActiveCfg) (f : Nat → DWord) :
    (putScratch s c f).sbHi = s.sbHi := rfl
@[simp] theorem putScratch_sbLo (s : State) (c : ActiveCfg) (f : Nat → DWord) :
    (putScratch s c f).sbLo = s.sbLo := rfl
@[simp] theorem putScratch_arena (s : State) (c : ActiveCfg) (f : Nat → DWord) :
    (putScratch s c f).arena = memWriteBytes s.arena (scratchBase (cfgL c) (cfgR c)) (imageBytes (cfgL c) f) := rfl
@[simp] theorem putScratch_digits (s : State) (c : ActiveCfg) (f : Nat → DWord) :
    (putScratch s c f).digits = s.digits := rfl
@[simp] theorem putScratch_carry (s : State) (c : ActiveCfg) (f : Nat → DWord) :
    (putScratch s c f).carry = s.carry := rfl
@[simp] theorem putScratch_errAcc (s : State) (c : ActiveCfg) (f : Nat → DWord) :
    (putScratch s c f).errAcc = s.errAcc := rfl
@[simp] theorem putScratch_resetIn (s : State) (c : ActiveCfg) (f : Nat → DWord) :
    (putScratch s c f).resetIn = s.resetIn := rfl
@[simp] theorem putScratch_remaining (s : State) (c : ActiveCfg) (f : Nat → DWord) :
    (putScratch s c f).remaining = s.remaining := rfl
@[simp] theorem putScratch_inputs (s : State) (c : ActiveCfg) (f : Nat → DWord) :
    (putScratch s c f).inputs = s.inputs := rfl
@[simp] theorem putScratch_answers (s : State) (c : ActiveCfg) (f : Nat → DWord) :
    (putScratch s c f).answers = s.answers := rfl
@[simp] theorem putScratch_draw (s : State) (c : ActiveCfg) (f : Nat → DWord) :
    (putScratch s c f).draw = s.draw := rfl
@[simp] theorem putScratch_epoch (s : State) (c : ActiveCfg) (f : Nat → DWord) :
    (putScratch s c f).epoch = s.epoch := rfl
@[simp] theorem putScratch_imageLog (s : State) (c : ActiveCfg) (f : Nat → DWord) :
    (putScratch s c f).imageLog = s.imageLog := rfl

/-! ### finish -/

@[simp] theorem finish_ie (d : Draws) (c : ActiveCfg) (s : State) : (finish d c s).ie = s.ie := rfl
@[simp] theorem finish_busy (d : Draws) (c : ActiveCfg) (s : State) :
    (finish d c s).busy = false := rfl
@[simp] theorem finish_done (d : Draws) (c : ActiveCfg) (s : State) :
    (finish d c s).done = true := rfl
@[simp] theorem finish_cmdOvf (d : Draws) (c : ActiveCfg) (s : State) :
    (finish d c s).cmdOvf = s.cmdOvf := rfl
@[simp] theorem finish_errCode (d : Draws) (c : ActiveCfg) (s : State) :
    (finish d c s).errCode = .ok := rfl
@[simp] theorem finish_engine (d : Draws) (c : ActiveCfg) (s : State) :
    (finish d c s).engine = s.engine := rfl
@[simp] theorem finish_pwarn (d : Draws) (c : ActiveCfg) (s : State) :
    (finish d c s).pwarn = s.pwarn := rfl
@[simp] theorem finish_unrec (d : Draws) (c : ActiveCfg) (s : State) :
    (finish d c s).unrec = s.unrec := rfl
@[simp] theorem finish_one (d : Draws) (c : ActiveCfg) (s : State) :
    (finish d c s).one = s.one := rfl
@[simp] theorem finish_m1 (d : Draws) (c : ActiveCfg) (s : State) : (finish d c s).m1 = s.m1 := rfl
@[simp] theorem finish_dvalid (d : Draws) (c : ActiveCfg) (s : State) :
    (finish d c s).dvalid = s.dvalid := rfl
@[simp] theorem finish_cmdLat (d : Draws) (c : ActiveCfg) (s : State) :
    (finish d c s).cmdLat = s.cmdLat := rfl
@[simp] theorem finish_cfgB (d : Draws) (c : ActiveCfg) (s : State) :
    (finish d c s).cfgB = s.cfgB := rfl
@[simp] theorem finish_cfgSize (d : Draws) (c : ActiveCfg) (s : State) :
    (finish d c s).cfgSize = s.cfgSize := rfl
@[simp] theorem finish_arg (d : Draws) (c : ActiveCfg) (s : State) :
    (finish d c s).arg = s.arg := rfl
@[simp] theorem finish_err (d : Draws) (c : ActiveCfg) (s : State) :
    (finish d c s).err = s.err := rfl
@[simp] theorem finish_maxErr (d : Draws) (c : ActiveCfg) (s : State) :
    (finish d c s).maxErr = s.maxErr := rfl
@[simp] theorem finish_thresh (d : Draws) (c : ActiveCfg) (s : State) :
    (finish d c s).thresh = s.thresh := rfl
@[simp] theorem finish_fp (d : Draws) (c : ActiveCfg) (s : State) : (finish d c s).fp = s.fp := rfl
@[simp] theorem finish_digIdx (d : Draws) (c : ActiveCfg) (s : State) :
    (finish d c s).digIdx = s.digIdx := rfl
@[simp] theorem finish_rawSel (d : Draws) (c : ActiveCfg) (s : State) :
    (finish d c s).rawSel = s.rawSel := rfl
@[simp] theorem finish_rawIdx (d : Draws) (c : ActiveCfg) (s : State) :
    (finish d c s).rawIdx = s.rawIdx := rfl
@[simp] theorem finish_rawLatch (d : Draws) (c : ActiveCfg) (s : State) :
    (finish d c s).rawLatch = s.rawLatch := rfl
@[simp] theorem finish_rawHold (d : Draws) (c : ActiveCfg) (s : State) :
    (finish d c s).rawHold = s.rawHold := rfl
@[simp] theorem finish_cfgLatB (d : Draws) (c : ActiveCfg) (s : State) :
    (finish d c s).cfgLatB = s.cfgLatB := rfl
@[simp] theorem finish_cfgLatSize (d : Draws) (c : ActiveCfg) (s : State) :
    (finish d c s).cfgLatSize = s.cfgLatSize := rfl
@[simp] theorem finish_argLat (d : Draws) (c : ActiveCfg) (s : State) :
    (finish d c s).argLat = s.argLat := rfl
@[simp] theorem finish_threshLat (d : Draws) (c : ActiveCfg) (s : State) :
    (finish d c s).threshLat = s.threshLat := rfl
@[simp] theorem finish_regs (d : Draws) (c : ActiveCfg) (s : State) :
    (finish d c s).regs = s.regs := rfl
@[simp] theorem finish_sbHi (d : Draws) (c : ActiveCfg) (s : State) :
    (finish d c s).sbHi = s.sbHi := rfl
@[simp] theorem finish_sbLo (d : Draws) (c : ActiveCfg) (s : State) :
    (finish d c s).sbLo = s.sbLo := rfl
@[simp] theorem finish_arena (d : Draws) (c : ActiveCfg) (s : State) :
    (finish d c s).arena = memWriteBytes s.arena (scratchBase (cfgL c) (cfgR c)) (imageBytes (cfgL c) d.scratch) := rfl
@[simp] theorem finish_digits (d : Draws) (c : ActiveCfg) (s : State) :
    (finish d c s).digits = s.digits := rfl
@[simp] theorem finish_carry (d : Draws) (c : ActiveCfg) (s : State) :
    (finish d c s).carry = s.carry := rfl
@[simp] theorem finish_errAcc (d : Draws) (c : ActiveCfg) (s : State) :
    (finish d c s).errAcc = s.errAcc := rfl
@[simp] theorem finish_resetIn (d : Draws) (c : ActiveCfg) (s : State) :
    (finish d c s).resetIn = s.resetIn := rfl
@[simp] theorem finish_remaining (d : Draws) (c : ActiveCfg) (s : State) :
    (finish d c s).remaining = s.remaining := rfl
@[simp] theorem finish_inputs (d : Draws) (c : ActiveCfg) (s : State) :
    (finish d c s).inputs = s.inputs := rfl
@[simp] theorem finish_answers (d : Draws) (c : ActiveCfg) (s : State) :
    (finish d c s).answers = s.answers := rfl
@[simp] theorem finish_draw (d : Draws) (c : ActiveCfg) (s : State) :
    (finish d c s).draw = s.draw + 1 := rfl
@[simp] theorem finish_epoch (d : Draws) (c : ActiveCfg) (s : State) :
    (finish d c s).epoch = s.epoch := rfl
@[simp] theorem finish_imageLog (d : Draws) (c : ActiveCfg) (s : State) :
    (finish d c s).imageLog = s.imageLog := rfl

/-! ### putDigits -/

@[simp] theorem putDigits_ie (k : Canon) (s : State) : (putDigits k s).ie = s.ie := rfl
@[simp] theorem putDigits_busy (k : Canon) (s : State) : (putDigits k s).busy = s.busy := rfl
@[simp] theorem putDigits_done (k : Canon) (s : State) : (putDigits k s).done = s.done := rfl
@[simp] theorem putDigits_cmdOvf (k : Canon) (s : State) : (putDigits k s).cmdOvf = s.cmdOvf := rfl
@[simp] theorem putDigits_errCode (k : Canon) (s : State) :
    (putDigits k s).errCode = s.errCode := rfl
@[simp] theorem putDigits_engine (k : Canon) (s : State) : (putDigits k s).engine = s.engine := rfl
@[simp] theorem putDigits_pwarn (k : Canon) (s : State) : (putDigits k s).pwarn = s.pwarn := rfl
@[simp] theorem putDigits_unrec (k : Canon) (s : State) : (putDigits k s).unrec = s.unrec := rfl
@[simp] theorem putDigits_one (k : Canon) (s : State) : (putDigits k s).one = s.one := rfl
@[simp] theorem putDigits_m1 (k : Canon) (s : State) : (putDigits k s).m1 = k.m1 := rfl
@[simp] theorem putDigits_dvalid (k : Canon) (s : State) : (putDigits k s).dvalid = true := rfl
@[simp] theorem putDigits_cmdLat (k : Canon) (s : State) : (putDigits k s).cmdLat = s.cmdLat := rfl
@[simp] theorem putDigits_cfgB (k : Canon) (s : State) : (putDigits k s).cfgB = s.cfgB := rfl
@[simp] theorem putDigits_cfgSize (k : Canon) (s : State) :
    (putDigits k s).cfgSize = s.cfgSize := rfl
@[simp] theorem putDigits_arg (k : Canon) (s : State) : (putDigits k s).arg = s.arg := rfl
@[simp] theorem putDigits_err (k : Canon) (s : State) : (putDigits k s).err = s.err := rfl
@[simp] theorem putDigits_maxErr (k : Canon) (s : State) : (putDigits k s).maxErr = s.maxErr := rfl
@[simp] theorem putDigits_thresh (k : Canon) (s : State) : (putDigits k s).thresh = s.thresh := rfl
@[simp] theorem putDigits_fp (k : Canon) (s : State) : (putDigits k s).fp = s.fp := rfl
@[simp] theorem putDigits_digIdx (k : Canon) (s : State) : (putDigits k s).digIdx = s.digIdx := rfl
@[simp] theorem putDigits_rawSel (k : Canon) (s : State) : (putDigits k s).rawSel = s.rawSel := rfl
@[simp] theorem putDigits_rawIdx (k : Canon) (s : State) : (putDigits k s).rawIdx = s.rawIdx := rfl
@[simp] theorem putDigits_rawLatch (k : Canon) (s : State) :
    (putDigits k s).rawLatch = s.rawLatch := rfl
@[simp] theorem putDigits_rawHold (k : Canon) (s : State) :
    (putDigits k s).rawHold = s.rawHold := rfl
@[simp] theorem putDigits_cfgLatB (k : Canon) (s : State) :
    (putDigits k s).cfgLatB = s.cfgLatB := rfl
@[simp] theorem putDigits_cfgLatSize (k : Canon) (s : State) :
    (putDigits k s).cfgLatSize = s.cfgLatSize := rfl
@[simp] theorem putDigits_argLat (k : Canon) (s : State) : (putDigits k s).argLat = s.argLat := rfl
@[simp] theorem putDigits_threshLat (k : Canon) (s : State) :
    (putDigits k s).threshLat = s.threshLat := rfl
@[simp] theorem putDigits_regs (k : Canon) (s : State) : (putDigits k s).regs = s.regs := rfl
@[simp] theorem putDigits_sbHi (k : Canon) (s : State) : (putDigits k s).sbHi = s.sbHi := rfl
@[simp] theorem putDigits_sbLo (k : Canon) (s : State) : (putDigits k s).sbLo = s.sbLo := rfl
@[simp] theorem putDigits_arena (k : Canon) (s : State) : (putDigits k s).arena = s.arena := rfl
@[simp] theorem putDigits_digits (k : Canon) (s : State) :
    (putDigits k s).digits = k.digits.map digitWord := rfl
@[simp] theorem putDigits_carry (k : Canon) (s : State) : (putDigits k s).carry = s.carry := rfl
@[simp] theorem putDigits_errAcc (k : Canon) (s : State) : (putDigits k s).errAcc = s.errAcc := rfl
@[simp] theorem putDigits_resetIn (k : Canon) (s : State) :
    (putDigits k s).resetIn = s.resetIn := rfl
@[simp] theorem putDigits_remaining (k : Canon) (s : State) :
    (putDigits k s).remaining = s.remaining := rfl
@[simp] theorem putDigits_inputs (k : Canon) (s : State) : (putDigits k s).inputs = s.inputs := rfl
@[simp] theorem putDigits_answers (k : Canon) (s : State) :
    (putDigits k s).answers = s.answers := rfl
@[simp] theorem putDigits_draw (k : Canon) (s : State) : (putDigits k s).draw = s.draw := rfl
@[simp] theorem putDigits_epoch (k : Canon) (s : State) : (putDigits k s).epoch = s.epoch := rfl
@[simp] theorem putDigits_imageLog (k : Canon) (s : State) :
    (putDigits k s).imageLog = s.imageLog := rfl

/-! ### applyConfig -/

@[simp] theorem applyConfig_ie (c : ActiveCfg) (s : State) : (applyConfig c s).ie = s.ie := rfl
@[simp] theorem applyConfig_busy (c : ActiveCfg) (s : State) :
    (applyConfig c s).busy = s.busy := rfl
@[simp] theorem applyConfig_done (c : ActiveCfg) (s : State) :
    (applyConfig c s).done = s.done := rfl
@[simp] theorem applyConfig_cmdOvf (c : ActiveCfg) (s : State) :
    (applyConfig c s).cmdOvf = s.cmdOvf := rfl
@[simp] theorem applyConfig_errCode (c : ActiveCfg) (s : State) :
    (applyConfig c s).errCode = s.errCode := rfl
@[simp] theorem applyConfig_engine (c : ActiveCfg) (s : State) :
    (applyConfig c s).engine = .configured c .constructed := rfl
@[simp] theorem applyConfig_pwarn (c : ActiveCfg) (s : State) :
    (applyConfig c s).pwarn = false := rfl
@[simp] theorem applyConfig_unrec (c : ActiveCfg) (s : State) :
    (applyConfig c s).unrec = false := rfl
@[simp] theorem applyConfig_one (c : ActiveCfg) (s : State) : (applyConfig c s).one = false := rfl
@[simp] theorem applyConfig_m1 (c : ActiveCfg) (s : State) : (applyConfig c s).m1 = false := rfl
@[simp] theorem applyConfig_dvalid (c : ActiveCfg) (s : State) :
    (applyConfig c s).dvalid = false := rfl
@[simp] theorem applyConfig_cmdLat (c : ActiveCfg) (s : State) :
    (applyConfig c s).cmdLat = s.cmdLat := rfl
@[simp] theorem applyConfig_cfgB (c : ActiveCfg) (s : State) :
    (applyConfig c s).cfgB = s.cfgB := rfl
@[simp] theorem applyConfig_cfgSize (c : ActiveCfg) (s : State) :
    (applyConfig c s).cfgSize = s.cfgSize := rfl
@[simp] theorem applyConfig_arg (c : ActiveCfg) (s : State) : (applyConfig c s).arg = s.arg := rfl
@[simp] theorem applyConfig_err (c : ActiveCfg) (s : State) : (applyConfig c s).err = 0 := rfl
@[simp] theorem applyConfig_maxErr (c : ActiveCfg) (s : State) : (applyConfig c s).maxErr = 0 := rfl
@[simp] theorem applyConfig_thresh (c : ActiveCfg) (s : State) :
    (applyConfig c s).thresh = s.thresh := rfl
@[simp] theorem applyConfig_fp (c : ActiveCfg) (s : State) : (applyConfig c s).fp = 0 := rfl
@[simp] theorem applyConfig_digIdx (c : ActiveCfg) (s : State) :
    (applyConfig c s).digIdx = s.digIdx := rfl
@[simp] theorem applyConfig_rawSel (c : ActiveCfg) (s : State) :
    (applyConfig c s).rawSel = s.rawSel := rfl
@[simp] theorem applyConfig_rawIdx (c : ActiveCfg) (s : State) :
    (applyConfig c s).rawIdx = s.rawIdx := rfl
@[simp] theorem applyConfig_rawLatch (c : ActiveCfg) (s : State) :
    (applyConfig c s).rawLatch = s.rawLatch := rfl
@[simp] theorem applyConfig_rawHold (c : ActiveCfg) (s : State) :
    (applyConfig c s).rawHold = s.rawHold := rfl
@[simp] theorem applyConfig_cfgLatB (c : ActiveCfg) (s : State) :
    (applyConfig c s).cfgLatB = s.cfgLatB := rfl
@[simp] theorem applyConfig_cfgLatSize (c : ActiveCfg) (s : State) :
    (applyConfig c s).cfgLatSize = s.cfgLatSize := rfl
@[simp] theorem applyConfig_argLat (c : ActiveCfg) (s : State) :
    (applyConfig c s).argLat = s.argLat := rfl
@[simp] theorem applyConfig_threshLat (c : ActiveCfg) (s : State) :
    (applyConfig c s).threshLat = s.threshLat := rfl
@[simp] theorem applyConfig_regs (c : ActiveCfg) (s : State) :
    (applyConfig c s).regs = Vector.replicate 32 none := rfl
@[simp] theorem applyConfig_sbHi (c : ActiveCfg) (s : State) :
    (applyConfig c s).sbHi = sqrtHi (cfgBase c) := by simp only [applyConfig]
@[simp] theorem applyConfig_sbLo (c : ActiveCfg) (s : State) :
    (applyConfig c s).sbLo = sqrtLo (cfgBase c) := by simp only [applyConfig]
@[simp] theorem applyConfig_arena (c : ActiveCfg) (s : State) : (applyConfig c s).arena = [] := rfl
@[simp] theorem applyConfig_digits (c : ActiveCfg) (s : State) :
    (applyConfig c s).digits = s.digits := rfl
@[simp] theorem applyConfig_carry (c : ActiveCfg) (s : State) :
    (applyConfig c s).carry = s.carry := rfl
@[simp] theorem applyConfig_errAcc (c : ActiveCfg) (s : State) :
    (applyConfig c s).errAcc = s.errAcc := rfl
@[simp] theorem applyConfig_resetIn (c : ActiveCfg) (s : State) :
    (applyConfig c s).resetIn = s.resetIn := rfl
@[simp] theorem applyConfig_remaining (c : ActiveCfg) (s : State) :
    (applyConfig c s).remaining = s.remaining := rfl
@[simp] theorem applyConfig_inputs (c : ActiveCfg) (s : State) :
    (applyConfig c s).inputs = s.inputs := rfl
@[simp] theorem applyConfig_answers (c : ActiveCfg) (s : State) :
    (applyConfig c s).answers = s.answers := rfl
@[simp] theorem applyConfig_draw (c : ActiveCfg) (s : State) :
    (applyConfig c s).draw = s.draw := rfl
@[simp] theorem applyConfig_epoch (c : ActiveCfg) (s : State) :
    (applyConfig c s).epoch = s.draw := rfl
@[simp] theorem applyConfig_imageLog (c : ActiveCfg) (s : State) :
    (applyConfig c s).imageLog = s.imageLog := rfl

/-! ### acceptCommand -/

@[simp] theorem acceptCommand_ie (w : Word) (s : State) : (acceptCommand w s).ie = s.ie := rfl
@[simp] theorem acceptCommand_busy (w : Word) (s : State) : (acceptCommand w s).busy = true := rfl
@[simp] theorem acceptCommand_done (w : Word) (s : State) : (acceptCommand w s).done = false := rfl
@[simp] theorem acceptCommand_cmdOvf (w : Word) (s : State) :
    (acceptCommand w s).cmdOvf = s.cmdOvf := rfl
@[simp] theorem acceptCommand_errCode (w : Word) (s : State) :
    (acceptCommand w s).errCode = s.errCode := rfl
@[simp] theorem acceptCommand_engine (w : Word) (s : State) :
    (acceptCommand w s).engine = s.engine := rfl
@[simp] theorem acceptCommand_pwarn (w : Word) (s : State) :
    (acceptCommand w s).pwarn = s.pwarn := rfl
@[simp] theorem acceptCommand_unrec (w : Word) (s : State) :
    (acceptCommand w s).unrec = s.unrec := rfl
@[simp] theorem acceptCommand_one (w : Word) (s : State) : (acceptCommand w s).one = s.one := rfl
@[simp] theorem acceptCommand_m1 (w : Word) (s : State) : (acceptCommand w s).m1 = s.m1 := rfl
@[simp] theorem acceptCommand_dvalid (w : Word) (s : State) :
    (acceptCommand w s).dvalid = s.dvalid := rfl
@[simp] theorem acceptCommand_cmdLat (w : Word) (s : State) : (acceptCommand w s).cmdLat = w := rfl
@[simp] theorem acceptCommand_cfgB (w : Word) (s : State) : (acceptCommand w s).cfgB = s.cfgB := rfl
@[simp] theorem acceptCommand_cfgSize (w : Word) (s : State) :
    (acceptCommand w s).cfgSize = s.cfgSize := rfl
@[simp] theorem acceptCommand_arg (w : Word) (s : State) : (acceptCommand w s).arg = s.arg := rfl
@[simp] theorem acceptCommand_err (w : Word) (s : State) : (acceptCommand w s).err = s.err := rfl
@[simp] theorem acceptCommand_maxErr (w : Word) (s : State) :
    (acceptCommand w s).maxErr = s.maxErr := rfl
@[simp] theorem acceptCommand_thresh (w : Word) (s : State) :
    (acceptCommand w s).thresh = s.thresh := rfl
@[simp] theorem acceptCommand_fp (w : Word) (s : State) : (acceptCommand w s).fp = s.fp := rfl
@[simp] theorem acceptCommand_digIdx (w : Word) (s : State) :
    (acceptCommand w s).digIdx = s.digIdx := rfl
@[simp] theorem acceptCommand_rawSel (w : Word) (s : State) :
    (acceptCommand w s).rawSel = s.rawSel := rfl
@[simp] theorem acceptCommand_rawIdx (w : Word) (s : State) :
    (acceptCommand w s).rawIdx = s.rawIdx := rfl
@[simp] theorem acceptCommand_rawLatch (w : Word) (s : State) :
    (acceptCommand w s).rawLatch = s.rawLatch := rfl
@[simp] theorem acceptCommand_rawHold (w : Word) (s : State) :
    (acceptCommand w s).rawHold = s.rawHold := rfl
@[simp] theorem acceptCommand_cfgLatB (w : Word) (s : State) :
    (acceptCommand w s).cfgLatB = if opField w = 1 then s.cfgB else s.cfgLatB := rfl
@[simp] theorem acceptCommand_cfgLatSize (w : Word) (s : State) :
    (acceptCommand w s).cfgLatSize = if opField w = 1 then s.cfgSize else s.cfgLatSize := rfl
@[simp] theorem acceptCommand_argLat (w : Word) (s : State) :
    (acceptCommand w s).argLat = if opField w = 2 then s.arg else s.argLat := rfl
@[simp] theorem acceptCommand_threshLat (w : Word) (s : State) :
    (acceptCommand w s).threshLat = if opField w = 3 ∨ opField w = 6 then s.thresh else s.threshLat := rfl
@[simp] theorem acceptCommand_regs (w : Word) (s : State) : (acceptCommand w s).regs = s.regs := rfl
@[simp] theorem acceptCommand_sbHi (w : Word) (s : State) : (acceptCommand w s).sbHi = s.sbHi := rfl
@[simp] theorem acceptCommand_sbLo (w : Word) (s : State) : (acceptCommand w s).sbLo = s.sbLo := rfl
@[simp] theorem acceptCommand_arena (w : Word) (s : State) :
    (acceptCommand w s).arena = s.arena := rfl
@[simp] theorem acceptCommand_digits (w : Word) (s : State) :
    (acceptCommand w s).digits = s.digits := rfl
@[simp] theorem acceptCommand_carry (w : Word) (s : State) :
    (acceptCommand w s).carry = s.carry := rfl
@[simp] theorem acceptCommand_errAcc (w : Word) (s : State) :
    (acceptCommand w s).errAcc = s.errAcc := rfl
@[simp] theorem acceptCommand_resetIn (w : Word) (s : State) :
    (acceptCommand w s).resetIn = s.resetIn := rfl
@[simp] theorem acceptCommand_remaining (w : Word) (s : State) :
    (acceptCommand w s).remaining = Config.duration s.draw := rfl
@[simp] theorem acceptCommand_inputs (w : Word) (s : State) :
    (acceptCommand w s).inputs = s.inputs := rfl
@[simp] theorem acceptCommand_answers (w : Word) (s : State) :
    (acceptCommand w s).answers = s.answers := rfl
@[simp] theorem acceptCommand_draw (w : Word) (s : State) :
    (acceptCommand w s).draw = s.draw + 1 := rfl
@[simp] theorem acceptCommand_epoch (w : Word) (s : State) :
    (acceptCommand w s).epoch = s.epoch := rfl
@[simp] theorem resetState_imageLog (s : State) : (resetState s).imageLog = s.imageLog := rfl
@[simp] theorem resetState_inputs (s : State) : (resetState s).inputs = s.inputs := rfl
@[simp] theorem resetState_answers (s : State) : (resetState s).answers = s.answers := rfl
@[simp] theorem resetState_draw (s : State) : (resetState s).draw = s.draw + 1 := rfl
@[simp] theorem resetState_epoch (s : State) : (resetState s).epoch = s.draw := rfl
@[simp] theorem acceptCommand_imageLog (w : Word) (s : State) :
    (acceptCommand w s).imageLog = s.imageLog := rfl

end Sys2Proof.Machine
end

