-- ==== Sys2Proof/Laws/Ops.lean ====
section
/-!
SUPPORT. What each shared operation can do, said once: the checks, the operands, the windows, a read of
a register, and a step.
-/

namespace Sys2Proof.Machine

/-! ### The checks -/

theorem withEngine_cases (s : State) (k : ActiveCfg → Phase → State) :
    (s.engine = .unconfigured ∧ withEngine s k = complete .state s) ∨
      ∃ c p, s.engine = .configured c p ∧ withEngine s k = k c p := by
  cases h : s.engine with
  | unconfigured => exact .inl ⟨rfl, by simp [withEngine, h]⟩
  | configured c p => exact .inr ⟨c, p, rfl, by simp [withEngine, h]⟩

theorem withEngine_of {s : State} {c : ActiveCfg} {p : Phase} (h : s.engine = .configured c p)
    (k : ActiveCfg → Phase → State) : withEngine s k = k c p := by
  simp [withEngine, h]

theorem withEngine_unconfigured {s : State} (h : s.engine = .unconfigured)
    (k : ActiveCfg → Phase → State) : withEngine s k = complete .state s := by
  simp [withEngine, h]

theorem withField_cases (s : State) (r : Option RegId) (k : RegId → State) :
    (r = none ∧ withField s r k = complete .reg s) ∨ ∃ j, r = some j ∧ withField s r k = k j := by
  cases r with
  | none => exact .inl ⟨rfl, rfl⟩
  | some j => exact .inr ⟨j, rfl, rfl⟩

theorem withValue_cases (s : State) (j : RegId) (k : Nat → State) :
    (s.regs[j] = none ∧ withValue s j k = complete .unwritten s) ∨
      ∃ v, s.regs[j] = some v ∧ withValue s j k = k v := by
  cases h : s.regs[j] with
  | none => exact .inl ⟨rfl, by simp only [withValue, h]⟩
  | some v => exact .inr ⟨v, rfl, by simp only [withValue, h]⟩

theorem withValue_of {s : State} {j : RegId} {v : Nat} (h : s.regs[j] = some v) (k : Nat → State) :
    withValue s j k = k v := by
  simp only [withValue, h]

/-! ### Operands -/

theorem regOperand_some {c : ActiveCfg} {j : Nat} {r : RegId} (h : regOperand c j = some r) :
    r.val = j ∧ j ≤ cfgR c ∧ j ≤ 30 := by
  unfold regOperand at h
  split at h
  · next hj => cases h; exact ⟨rfl, hj⟩
  · cases h

theorem validateOperand_some {c : ActiveCfg} {j : Nat} {r : RegId} (h : validateOperand c j = some r) :
    r = regM ∨ r.val ≤ cfgR c := by
  unfold validateOperand at h
  split at h
  · cases h; exact .inl rfl
  · have := regOperand_some h
    exact .inr (by omega)

/-! ### The windows -/

/-- When the raw window reaches a word (10_state.md R48, R49). -/
theorem rawTarget_some {s : State} {l : Nat} {j : RegId} {w : Nat} (h : rawTarget s = some (l, j, w)) :
    ∃ c p, s.engine = .configured c p ∧ rawSelected c s.rawSel = some j ∧ s.busy = false ∧ l = cfgL c ∧
      w = s.rawIdx.toNat ∧ w < rawWordsOf l := by
  unfold rawTarget at h
  split at h
  · cases h
  · next c p he =>
    split at h
    · cases h
    · next r hr =>
      split at h
      · next hb => cases h; exact ⟨c, p, he, hr, hb.1, rfl, rfl, hb.2⟩
      · cases h

/-- While a command runs the raw window reaches nothing (20_memory.md R76). -/
theorem rawTarget_busy {s : State} (h : s.busy = true) : rawTarget s = none := by
  unfold rawTarget
  split
  · rfl
  · split
    · rfl
    · simp [h]

/-- While a command runs the digit window reaches nothing (20_memory.md R76). -/
theorem digitTarget_busy {s : State} (h : s.busy = true) : digitTarget s = none := by
  unfold digitTarget
  split
  · rfl
  · simp [h]

/-- A read changes at most DIG_IDX, RAW_LATCH and RAW_IDX (20_memory.md R72). -/
theorem readReg_state (r : WinReg) (s : State) :
    (readReg r s).2 = s ∨ (readReg r s).2 = { s with digIdx := s.digIdx + 1 } ∨
      (∃ x, (readReg r s).2 = { s with rawLatch := x }) ∨
      (readReg r s).2 = { s with rawIdx := s.rawIdx + 1 } := by
  cases r with
  | digData =>
    simp only [readReg, readDigData]
    split
    · exact .inl rfl
    · exact .inr (.inl rfl)
  | rawLo =>
    simp only [readReg, readRawLo]
    split
    · exact .inl rfl
    · exact .inr (.inr (.inl ⟨_, rfl⟩))
  | rawHi =>
    simp only [readReg, readRawHi]
    split
    · exact .inl rfl
    · exact .inr (.inr (.inr rfl))
  | _ => exact .inl rfl

/-! ### A step -/

/-- Every command ends in a next state. -/
theorem exec_next (i : Instr) (s : State) : ∃ t, exec i s = .next t := by
  cases i <;> exact ⟨_, rfl⟩

/-- The two things a step can be: the completion of the running command, or the world's next action. -/
theorem step_cases (s : State) :
    (s.busy = true ∧ s.remaining = 0 ∧ step s = runCommand s) ∨
      ((s.busy = false ∨ s.remaining ≠ 0) ∧
        step s = .next (runInput { s with remaining := s.remaining - 1 })) := by
  unfold step
  by_cases hb : s.busy = true <;> by_cases hr : s.remaining = 0 <;> simp [hb, hr]

/-- What a completion step answers. -/
theorem runCommand_cases (s : State) :
    (∃ i, decode s.cmdLat = .ok i ∧ runCommand s = exec i s) ∨
      (∃ e, decode s.cmdLat = .error e ∧ runCommand s = .next (complete .illegal s)) := by
  cases h : decode s.cmdLat with
  | ok i => exact .inl ⟨i, rfl, by simp only [runCommand, h]⟩
  | error e => exact .inr ⟨e, rfl, by simp only [runCommand, h, runIllegal]⟩

end Sys2Proof.Machine
end

