-- ==== Sys2Proof/Laws/PerInstr.lean ====
section
/-!
SUPPORT. One lemma per command: a well-formed command's word selects the row of its mnemonic, and no
other row (30_encoding.md R99, R100).
-/

namespace Sys2Proof.Laws.EncodesToItsRow

/-- The rows a command's word selects are the one row of its mnemonic. -/
def Statement (i : Instr) : Prop :=
  i.wellFormed = true →
    (opcodeMap.filter fun r => r.selects (encode i)).map OpRow.mnemonic = [mnemonicOf i]

/-- Every row's mask holds the opcode byte, so a word selects no row of another opcode. -/
theorem selects_false {r : OpRow} {w : Word} (hm : r.mask.extractLsb' 0 8 = 0xFF)
    (h : (r.word.extractLsb' 0 8).toNat ≠ opField w) : r.selects w = false := by
  rw [OpRow.selects, beq_eq_false_iff_ne]
  intro he
  apply h
  rw [← he, opField]
  congr 1
  ext i hi
  have hmi := congrArg (fun v => v.getLsbD i) hm
  have h8 : (0xFF : BitVec 8).getLsbD i = true := by interval_cases i <;> decide
  simp only [BitVec.getLsbD_extractLsb', hi, decide_true, Bool.true_and, Nat.zero_add, h8] at hmi
  simp [BitVec.getLsbD_and, hmi]

/-- The opcode byte of a row. -/
def rowOp (r : OpRow) : Nat := (r.word.extractLsb' 0 8).toNat

theorem filter_rows (w : Word) :
    (opcodeMap.filter fun r => r.selects w) =
      opcodeMap.filter fun r => decide (rowOp r = opField w) && r.selects w := by
  have hmask : ∀ r ∈ opcodeMap, r.mask.extractLsb' 0 8 = 0xFF := by decide
  refine List.filter_congr fun r hr => ?_
  by_cases h : rowOp r = opField w
  · simp [h]
  · simp [h, selects_false (hmask r hr) h]

/-- A COPY-like word under its mask: only the opcode is left. -/
theorem commandWord_and {op dst src : Nat} {mask : Word} (ho : op < 256) (hd : dst < 256) (hs : src < 256)
    (hlow : mask.extractLsb' 0 8 = 0xFF)
    (hdst : dst = 0 ∨ mask.extractLsb' 8 8 = 0) (hsrc : src = 0 ∨ mask.extractLsb' 16 8 = 0) :
    commandWord op dst src false &&& mask = BitVec.ofNat 32 op := by
  have bit {n : Nat} (hn : n < 256) (i : Nat) (hi : 8 ≤ i) : n.testBit i = false :=
    Nat.testBit_lt_two_pow (Nat.lt_of_lt_of_le hn (Nat.pow_le_pow_right (Nat.succ_pos 1) hi))
  refine BitVec.eq_of_getLsbD_eq fun i hi => ?_
  simp only [commandWord, BitVec.getLsbD_and, BitVec.getLsbD_or, BitVec.getLsbD_shiftLeft,
    BitVec.getLsbD_ofNat, Bool.toNat_false, Nat.zero_testBit, Bool.and_false, Bool.or_false]
  by_cases h8 : i < 8
  · have hm := congrArg (fun v => v.getLsbD i) hlow
    have hff : (0xFF : BitVec 8).getLsbD i = true := by interval_cases i <;> decide
    simp only [BitVec.getLsbD_extractLsb', h8, decide_true, Bool.true_and, Nat.zero_add, hff] at hm
    have h16 : i < 16 := by omega
    simp [h8, h16, hm]
  · have hop := bit ho i (by omega)
    by_cases h16 : i < 16
    · rcases hdst with rfl | hm
      · simp [h16, hop]
      · have hm := congrArg (fun v => v.getLsbD (i - 8)) hm
        simp only [BitVec.getLsbD_extractLsb', show i - 8 < 8 by omega, decide_true, Bool.true_and,
          show 8 + (i - 8) = i by omega] at hm
        simp [hm, hop]
    · have hd' := bit hd (i - 8) (by omega)
      by_cases h24 : i < 24
      · rcases hsrc with rfl | hm
        · simp [hop, hd']
        · have hm := congrArg (fun v => v.getLsbD (i - 16)) hm
          simp only [BitVec.getLsbD_extractLsb', show i - 16 < 8 by omega, decide_true, Bool.true_and,
            show 16 + (i - 16) = i by omega] at hm
          simp [hm, hop]
      · have hs' := bit hs (i - 16) (by omega)
        simp [hop, hd', hs']

theorem nop : Statement .nop := fun _ => by decide

theorem configure : Statement .configure := fun _ => by decide

theorem set : Statement .set := fun _ => by decide

theorem squareDup (dup : Bool) : Statement (.squareDup dup) := fun _ => by cases dup <;> decide

theorem copy (dst src : Nat) : Statement (.copy dst src) := by
  intro h
  simp only [Instr.wellFormed, fitsField, Bool.and_eq_true, decide_eq_true_eq] at h
  have ho := opField_commandWord (op := 4) false (by decide) h.1 h.2
  have hsel : (encode (.copy dst src) &&& 0xFF0000FF#32) = 0x00000004#32 :=
    commandWord_and (by decide) h.1 h.2 (by decide) (.inr (by decide)) (.inr (by decide))
  rw [filter_rows, show opField (encode (.copy dst src)) = 4 from ho]
  simp [opcodeMap, rowOp, OpRow.selects, hsel, mnemonicOf]

theorem initMult (src : Nat) : Statement (.initMult src) := by
  intro h
  simp only [Instr.wellFormed, fitsField, decide_eq_true_eq] at h
  have ho := opField_commandWord (op := 5) (dst := 0) false (by decide) (by decide) h
  have hsel : (encode (.initMult src) &&& 0xFF00FFFF#32) = 0x00000005#32 :=
    commandWord_and (by decide) (by decide) h (by decide) (.inl rfl) (.inr (by decide))
  rw [filter_rows, show opField (encode (.initMult src)) = 5 from ho]
  simp [opcodeMap, rowOp, OpRow.selects, hsel, mnemonicOf]

theorem mul : Statement .mul := fun _ => by decide

theorem getInt : Statement .getInt := fun _ => by decide

theorem isOne : Statement .isOne := fun _ => by decide

theorem validate (dst : Nat) : Statement (.validate dst) := by
  intro h
  simp only [Instr.wellFormed, fitsField, decide_eq_true_eq] at h
  have ho := opField_commandWord (op := 9) (src := 0) false (by decide) h (by decide)
  have hsel : (encode (.validate dst) &&& 0xFFFF00FF#32) = 0x00000009#32 :=
    commandWord_and (by decide) h (by decide) (by decide) (.inr (by decide)) (.inl rfl)
  rw [filter_rows, show opField (encode (.validate dst)) = 9 from ho]
  simp [opcodeMap, rowOp, OpRow.selects, hsel, mnemonicOf]

end Sys2Proof.Laws.EncodesToItsRow
end

