-- ==== Sys2Proof/Tests/Slice0.lean ====
section
/-!
SUPPORT. The model's own tests, from the vectors of 95_test_vectors.md, and a witness for every
statement that has hypotheses.
-/

namespace Sys2Proof.Tests.Slice0

set_option Elab.async false

open Sys2Proof Sys2Proof.Machine

/-! ### Words of commands -/

/-- Register indices that do not fit their field. -/
theorem test_wellformed_refuses : [Instr.copy 256 0, .copy 0 256, .initMult 256, .validate 256].map
    Instr.wellFormed = [false, false, false, false] := by decide

theorem test_wellformed_accepts : [Instr.copy 255 255, .initMult 255, .validate 255, .squareDup true].map
    Instr.wellFormed = [true, true, true, true] := by decide

/-- 95_test_vectors.md 2.4: words written out from the opcode map of 30_encoding.md R99. -/
theorem test_decode_nop : decode 0x00000000 = .ok .nop := by decide
theorem test_decode_configure : decode 0x00000001 = .ok .configure := by decide
theorem test_decode_set : decode 0x00000002 = .ok .set := by decide
theorem test_decode_square : decode 0x00000003 = .ok (.squareDup false) := by decide
theorem test_decode_square_dup : decode 0x01000003 = .ok (.squareDup true) := by decide
theorem test_decode_copy : decode 0x00020104 = .ok (.copy 1 2) := by decide
theorem test_decode_init_mult : decode 0x00030005 = .ok (.initMult 3) := by decide
theorem test_decode_mul : decode 0x00000006 = .ok .mul := by decide
theorem test_decode_get_int : decode 0x00000007 = .ok .getInt := by decide
theorem test_decode_is_one : decode 0x00000008 = .ok .isOne := by decide
theorem test_decode_validate : decode 0x0000FF09 = .ok (.validate 255) := by decide

/-- 95_test_vectors.md 2.4: illegal words, by reason. -/
theorem test_decode_fields : [0x00000103, 0x00010003, 0x01000004, 0x00000105, 0x00FF0009, 0x01000002].map decode =
    List.replicate 6 (.error .fieldNotZero) := by decide
theorem test_decode_reserved : [0x02000003, 0x80000000, 0x0000000A, 0x000000FF, 0xFFFFFFFF].map decode =
    [.error .reservedBits, .error .reservedBits, .error .reservedOpcode, .error .reservedOpcode,
      .error .reservedOpcode] := by decide

/-- 30_encoding.md R104: the words of the assembly. -/
theorem test_encode : [Instr.squareDup true, .copy 1 0, .initMult 2, .validate 255].map encode =
    [0x01000003, 0x00000104, 0x00020005, 0x0000FF09] := by decide

theorem test_table_word : decodeTableWord 32 0x00020104 = some (.copy 1 2) ∧
    decodeTableWord 32 0x00000103 = none := by decide

/-- 30_encoding.md R105: CFG_SIZE of `cfg 399998300, 10, 2, 2, 1`. -/
theorem test_cfg_pseudo : cfgSizeValue 10 2 2 true = 0x0102020A := by decide

/-! ### Datapath and digits -/

/-- 95_test_vectors.md 2.5: round of 2.5, −2.5, 1.5, −0.5. -/
theorem test_round_ties : ([0x4004000000000000, 0xC004000000000000, 0x3FF8000000000000, 0xBFE0000000000000] : List F64).map f64RoundHalfAway = [0x4008000000000000, 0xC008000000000000, 0x4000000000000000, 0xBFF0000000000000] := by decide +kernel

/-- 95_test_vectors.md 2.5: round just below a half, of −0.4, of an odd integer above 2^52, of infinity. -/
theorem test_round_edges : ([0x3FDFFFFFFFFFFFFF, 0xBFD999999999999A, 0x4330000000000001, 0x7FF0000000000000] : List F64).map f64RoundHalfAway = [0x0000000000000000, 0x8000000000000000, 0x4330000000000001, 0x7FF0000000000000] := by decide +kernel

/-- 95_test_vectors.md 2.5: max is not symmetric on zeros and NaNs. -/
theorem test_max_order : f64Max 0x3FF0000000000000 0x4008000000000000 = 0x4008000000000000 ∧ f64Max 0x0000000000000000 0x8000000000000000 = 0x8000000000000000 ∧ f64Max 0x7FF8000000000000 0x401C000000000000 = 0x401C000000000000 ∧ f64Max 0x401C000000000000 0x7FF8000000000000 = 0x7FF8000000000000 := by decide +kernel

/-- 95_test_vectors.md 2.5: sqr, exact and at a tie that rounds to even. -/
theorem test_sqr : cxSqr f64Arith ⟨0x4008000000000000, 0x4010000000000000⟩ = ⟨0xC01C000000000000, 0x4038000000000000⟩ ∧ cxSqr f64Arith ⟨0x4197D78404000000, 0x0000000000000000⟩ = ⟨0x4341C3793DD66100, 0x0000000000000000⟩ := by decide +kernel

/-- 95_test_vectors.md 2.5: addi, subi and sub_i of (1, 2) and (3, 4). -/
theorem test_times_i : let z : Cx F64 := ⟨0x3FF0000000000000, 0x4000000000000000⟩; let r : Cx F64 := ⟨0x4008000000000000, 0x4010000000000000⟩
    [addi f64Arith z r, subi f64Arith z r, sub_i f64Arith z r] = [⟨0xC008000000000000, 0x4014000000000000⟩, ⟨0x4014000000000000, 0xBFF0000000000000⟩, ⟨0xC000000000000000, 0x4000000000000000⟩] := by decide +kernel

/-- 95_test_vectors.md 2.5: muli, mulmi, mul1i and mul1mi of (1, 2). -/
theorem test_rotations : let z : Cx F64 := ⟨0x3FF0000000000000, 0x4000000000000000⟩
    [muli f64Arith z, mulmi f64Arith z, mul1i f64Arith z, mul1mi f64Arith z] = [⟨0xC000000000000000, 0x3FF0000000000000⟩, ⟨0x4000000000000000, 0xBFF0000000000000⟩, ⟨0xBFF0000000000000, 0x4008000000000000⟩, ⟨0x4008000000000000, 0x3FF0000000000000⟩] := by decide +kernel

/-- 95_test_vectors.md 2.5: the twiddle product and its conjugate, with the Gentleman form's rounding. -/
theorem test_mulW : mulW f64Arith ⟨0x0000000000000000, 0x3FF0000000000000⟩ ⟨0x3FE6A09E667F3BCD, 0x3FF0000000000000⟩ = ⟨0xBFE6A09E667F3BCD, 0x3FE6A09E667F3BCD⟩ ∧
    mulW f64Arith ⟨0x3FF0000000000000, 0x0000000000000000⟩ ⟨0x3FED906BCF328D46, 0x3FDA827999FCEF32⟩ = ⟨0x3FED906BCF328D46, 0x3FD87DE2A6AEA962⟩ ∧
    mulWconj f64Arith ⟨0x3FE6A09E667F3BCD, 0x3FE6A09E667F3BCD⟩ ⟨0x3FE6A09E667F3BCD, 0x3FF0000000000000⟩ = ⟨0x3FF0000000000001, 0x0000000000000000⟩ := by decide +kernel

/-- 95_test_vectors.md 2.5: shift with and without rotation. -/
theorem test_shift : (vdShift f64Arith (#v[0x3FF0000000000000, 0x4000000000000000, 0x4008000000000000, 0x4010000000000000]) (#v[0x4014000000000000, 0x4018000000000000, 0x401C000000000000, 0x4020000000000000]) false).toList = [0x4020000000000000, 0x3FF0000000000000, 0x4000000000000000, 0x4008000000000000] ∧
    (vdShift f64Arith (#v[0x3FF0000000000000, 0x4000000000000000]) (#v[0x4008000000000000, 0x0000000000000000]) true).toList = [0x8000000000000000, 0x3FF0000000000000] := by decide +kernel

/-- 95_test_vectors.md 2.6.0: stored twiddles and the first pointwise root. -/
theorem test_twiddles : f64Delta 2 0 = ⟨0x3FED906BCF328D46, 0x3FDA827999FCEF32⟩ ∧ f64Delta 2 2 = ⟨0x3FD87DE2A6AEA963, 0x4003504F333F9DE6⟩ ∧
    f64Delta 1 0 = ⟨0x3FE6A09E667F3BCD, 0x3FF0000000000000⟩ ∧ f64Rho 10 0 = ⟨0x3FEFFFF621621D02, 0x3F6921F8BECCA4BA⟩ := by decide +kernel

/-- 95_test_vectors.md 2.7.2: sb_hi and sb_lo of C1024. -/
theorem test_base_params : sqrtHi 399998300 = 0x40D387FD47ADE3FE ∧ sqrtLo 399998300 = 0x3D797B17E5FAA234 := by decide +kernel

/-- 95_test_vectors.md 2.7.2: splits of digits of C1024. -/
theorem test_split : [0, 9999, 10000, -10000, 123456789, 199999150, -99998300].map (splitH 399998300) =
    [0, 0, 1, -1, 6173, 10000, -5000] ∧
    splitDigit (exactEvaluator 399998300) 123456789 = ⟨0xC0A7094B60956AFE, 0x40B81D0000000000⟩ ∧
    splitDigit (exactEvaluator 399998300) 20000 = ⟨0x3FA5C290E00CD09D, 0x3FF0000000000000⟩ := by decide +kernel

/-- 95_test_vectors.md 2.7.1: carry steps of C1024. -/
theorem test_carry_step : let b := 399998300
    carryStep b 1 199999150 0 = (199999150, 0) ∧ carryStep b 2 300000000 0 = (-199996600, 2) ∧
    carryStep b 2 0 2 = (2, 0) ∧ carryStep b 2 99980001 0 = (199960002, 0) ∧ carryStep b 1 (-1) 5 = (4, 0) := by decide +kernel

/-- 95_test_vectors.md 2.7.1: a tie of the carry input rounds away from zero. -/
theorem test_carry_round : surdRound 399998300 ⟨-1, 0, -1⟩ = -1 ∧ surdRound 399998300 ⟨1, 0, -2⟩ = 0 := by decide +kernel

/-- 95_test_vectors.md 2.7.3: rows of the stitch, one with a leftover carry. -/
theorem test_stitch : let b := 399998300
    stitchRow b (-3) [5, 0, 0] = [2, 0, 0] ∧
    stitchRow b 1 (List.replicate 8 199999150) = List.replicate 7 (-199999149) ++ [199999151] ∧
    stitchRow b (-1) [-199999150, 0, 0] = [199999149, -1, 0] ∧ stitchRow b 0 [7, 8] = [7, 8] := by decide +kernel

/-- 95_test_vectors.md 2.7.3, 42_passes.md R169: the ring, negated into row 0 of PE 0. -/
theorem test_carry_in : let f := [[3, 1, 4]]
    carryIn 10 1 [List.replicate 15 0 ++ [3]] 0 0 = -3 ∧ carryIn 10 1 f 0 1 = 3 ∧ carryIn 10 2 [[1, 2], [5, 6]] 1 1 = 2 := by decide +kernel

/-- 43_residue.md R186: toy vectors with b = 10 and N = 4. -/
theorem test_unbalance_toy : [[3, -5, 5, 0], [0, 0, 0, 12], [-1, 0, 0, 0], [1, 0, 0, 0], [-3, 0, 0, 0]].map (unbalance 10) =
    [⟨[3, 5, 4, 0], false⟩, ⟨[9, 9, 9, 1], false⟩, ⟨[-1, 0, 0, 0], true⟩, ⟨[1, 0, 0, 0], false⟩, ⟨[8, 9, 9, 9], false⟩] := by decide +kernel

/-- 95_test_vectors.md 2.8.6, with N = 4 in place of 1024: the digits between are 0 or b − 1 in the same way. -/
theorem test_unbalance_vectors : let b := 399998300
    unbalance b [-1, 0, 0, 0] = ⟨[-1, 0, 0, 0], true⟩ ∧ unbalance b [-99998300, 1, 0, 0] = ⟨[300000000, 0, 0, 0], false⟩ ∧
    unbalance b [0, 0, 0, -1] = ⟨[1, 0, 0, 399998299], false⟩ ∧ unbalance b [b, 0, 0, 0] = ⟨[0, 1, 0, 0], false⟩ ∧
    unbalance b [b, 399998299, 399998299, 399998299] = ⟨[-1, 0, 0, 0], true⟩ := by decide +kernel

/-- 95_test_vectors.md 2.8.6: the last eight digits' low bytes. -/
theorem test_fingerprint : fingerprint (List.replicate 8 399998299) = 0x5B5B5B5B5B5B5B5B ∧
    fingerprint [0x12345678, 0, 0, 0, 0, 0, 0, 0] = 0x7800000000000000 ∧ fingerprint [9, 0, 0, 0, 0, 0, 0, 0, 1] = 1 := by decide +kernel

/-- 95_test_vectors.md 2.8.6. -/
theorem test_canon_is_one : canonIsOne ⟨[1, 0, 0], false⟩ = true ∧ canonIsOne ⟨[1, 0, 1], false⟩ = false ∧ canonIsOne ⟨[-1, 0, 0], true⟩ = false := by decide +kernel

/-- 95_test_vectors.md 2.6.2: the balanced expansions of SET. -/
theorem test_balanced : let b := 399998300
    [300000000, 399998299, 2147483647, -2147483648, -1, 199999150, -199999150].map (balancedDigits b 3) =
    [[-99998300, 1, 0], [-1, 1, 0], [147492147, 5, 0], [-147492148, -5, 0], [-1, 0, 0], [199999150, 0, 0],
      [199999150, -1, 0]] := by decide +kernel

/-- 44_commands.md R192 with b = 2: 3 is (1, 1, 0, …); the quotient of −1 stays −1 (log 32). -/
theorem test_balanced_base_two : balancedDigits 2 6 (-1) = [1, 1, 1, 1, 1, 1] ∧ balancedDigits 2 6 3 = [1, 1, 0, 0, 0, 0] := by decide +kernel

/-- 95_test_vectors.md 2.1: sizes and positions. -/
theorem test_sizes : [10, 13, 17, 20, 23].map rawWordsOf = [2176, 16640, 262400, 2099200, 16793600] ∧
    [10, 13, 15, 23].map nio = [64, 256, 1024, 4096] ∧ padIndex 10 1023 = 1083 := by decide +kernel

/-- 95_test_vectors.md 2.1: ARENA_REQ. -/
theorem test_arena_req : arenaReq 10 1 0 = 57024 ∧ arenaReq 10 8 2 = 93632 ∧ arenaReq 12 2 2 = 350144 ∧ arenaReq 23 64 30 = 4469162432 := by decide +kernel

/-- 40_lane_vector.md R125: row 5, column group 2 of C1024 is the samples from 5·64 + 16 on, in every width. -/
theorem test_tile_rows : [LaneWidth.two, .four, .eight].map (fun W => tileDigits W (fun k => (k : Int)) 64 2 5) =
    List.replicate 3 [336, 337, 338, 339, 340, 341, 342, 343] := by decide +kernel

/-- 40_lane_vector.md R124, R125: a tile written back changes its own positions only. -/
theorem test_tile_store : let tile : Vcx8 Int 4 := tileLoad 4 (digitSample fun _ => 9) 64 2 4
    [335, 336, 343, 344, 464, 528].map (fun k => (tileStore tile (digitSample fun _ => 1) 64 2 4 k).re) =
      [1, 9, 9, 1, 9, 1] := by decide +kernel

/-- 42_passes.md R155: with three PEs and eight pairs, the pairs 0–1, 2–4 and 5–7. -/
theorem test_row_owners : ([0, 2, 5, 10, 13, 15].map fun row => [0, 1, 2].map fun pe => ownsRow 10 3 pe row) =
    [[true, false, false], [false, true, false], [false, false, true], [false, false, true],
      [false, true, false], [true, false, false]] := by decide +kernel

/-- 95_test_vectors.md 2.6.1: backward4_0, exact in binary64. -/
theorem test_butterflies : let i : Cx F64 := ⟨0x0000000000000000, 0x3FF0000000000000⟩; let m : Cx F64 := ⟨0x0000000000000000, 0xBFF0000000000000⟩
    let y := backward4_0 f64Arith f64SqrtHalf ⟨i, i, m, m⟩
    y.x2.re = 0x4010000000000000 ∧ [y.x0.re, y.x0.im, y.x1.re, y.x1.im, y.x2.im, y.x3.re, y.x3.im].all f64IsZero = true := by decide +kernel

/-! ### Small states -/

/-- C1024 with two more registers (95_test_vectors.md 2.8.4). -/
def c1024 : ActiveCfg := ⟨399998300, 10, 2, 2, true⟩

/-- The test instance's sizes (95_test_vectors.md). -/
def testSizes : Sizes := ⟨fun _ => 0xFFFFFFFE, 8, 4, 2 ^ 32⟩

/-- Draws of an instance of another schedule, in which PE 1 of two has the error 0.25. -/
def drawn : Draws where
  exact := true
  residue := 5
  errv := fun t => if t = 1 then ⟨0x3FD0000000000000, by decide⟩ else 0
  image := fun w => BitVec.ofNat 64 w
  carrySlot := fun _ _ => 0
  scratch := fun w => BitVec.ofNat 64 (w + 7)
  lanes := .four
  schedule := .other
  xEval := .exact
  splitEval := .exact

/-- Draws under which EXACT fails. -/
def inexact : Draws := { drawn with exact := false }

/-- A configured state in which the registers hold these values, in their order from r_0. -/
def ready (rs : List (Option Nat)) : State :=
  { State.reset with
    engine := .configured c1024 .initialized
    regs := Vector.ofFn fun i => rs.getD i.val none
    threshLat := threshReset }

/-- The values of r_0, r_1, r_2 and r_m. -/
def values (s : State) : List (Option Nat) := [s.regs[(0 : RegId)], s.regs[(1 : RegId)], s.regs[(2 : RegId)], s.regs[regM]]

/-- r_0 and r_m hold values. -/
def readyMul (v u : Nat) : State := { ready [] with regs := ((ready [some v]).regs.set 31 (some u)) }

/-- A command word that has been accepted and whose completion is due. -/
def due (w : Word) (s : State) : State := { s with busy := true, cmdLat := w, remaining := 0 }

/-- The latches of `cfg b, log2n, t, nregs, 1`. -/
def latched (b size : Word) : State := { State.reset with cfgLatB := b, cfgLatSize := size }

/-- The state a command leaves. -/
def left (o : Host.Outcome State Fault Refusal) : State :=
  match o with
  | .next t => t
  | .fault _ => State.reset
  | .refused _ => State.reset

/-- 95_test_vectors.md 2.8.1 and 2.8.5: the codes of commands after reset. -/
theorem test_nop : statusWord (left (exec .nop State.reset)) = 0x00000002 := by decide +kernel
theorem test_illegal : statusWord (left (step (due 0x80000003 State.reset))) = 0x00000022 := by decide +kernel
theorem test_unconfigured : ([0x00000003, 0x0000FF04, 0x00000006, 0x00000009] : List Word).map
    (fun w => statusWord (left (step (due w State.reset)))) = List.replicate 4 0x00000032 := by decide +kernel

theorem test_configure : let t := configureWith testSizes (latched 399998300 0x0102020A)
    statusWord t = 0x00000102 ∧ cfgSizeWord (latchedCfg (latched 399998300 0x0102020A)) = 0x0102020A ∧
      t.engine = .configured c1024 .constructed := by decide +kernel

/-- 95_test_vectors.md 2.8.5: each test of CONFIGURE. -/
theorem test_configure_refuses : ([(399998301, 0x0100010A), (0, 0x0100010A), (399998300, 0x01000109),
    (399998300, 0x01000118), (399998300, 0x0100000A), (399998300, 0x0100090A), (399998300, 0x0105010A)] :
      List (Word × Word)).map (fun x => statusWord (configureWith testSizes (latched x.1 x.2))) =
    List.replicate 7 0x00000012 := by decide +kernel

theorem test_set : let t := setWith drawn { ready [] with argLat := 0xFFFFFFFF }
    values t = [some (399998300 ^ 1024), none, none, none] ∧ statusWord t = 0x00000202 := by decide +kernel

/-- 95_test_vectors.md 2.8.3: 2·3² = 18. -/
theorem test_square_dup : let t := squareDupWith drawn true (ready [some 3])
    values t = [some 18, none, none, none] ∧ statusWord t = 0x00000302 ∧
      t.errAcc = [0, 0x3FD0000000000000] ∧ t.err = 0x3FD0000000000000 ∧ t.maxErr = 0x3FD0000000000000 := by
  decide +kernel

/-- 10_state.md R65: the scratch image holds free words after a command. -/
theorem test_scratch : arenaWord (finish drawn c1024 (ready [])) (scratchBase 10 2 + 8) = 8 := by decide +kernel

/-- 44_commands.md R189: without EXACT the value is some residue; −1 squared is 1 with it. -/
theorem test_square_values : values (squareDupWith inexact false (ready [some 3])) = [some 5, none, none, none] ∧
    values (squareDupWith drawn false (ready [some (399998300 ^ 1024)])) = [some 1, none, none, none] := by
  decide +kernel

/-- 95_test_vectors.md 2.8.4: 7·6 = 42, and r_m keeps 6. -/
theorem test_mul : values (mulWith drawn (readyMul 7 6)) = [some 42, none, none, some 6] := by decide +kernel

theorem test_mul_unwritten : statusWord (mulWith drawn (ready [some 3])) = 0x00000252 := by decide +kernel

/-- 95_test_vectors.md 2.8.4: COPY to r_1, and to r_0, which sets ESTATE. -/
theorem test_copy : values (copyWith drawn 1 0 (ready [some 7])) = [some 7, some 7, none, none] ∧
    statusWord (copyWith drawn 1 0 (ready [some 7])) = 0x00000202 ∧
    statusWord (copyWith drawn 0 0 (ready [some 4])) = 0x00000302 := by decide +kernel

/-- 95_test_vectors.md 2.8.5: REG goes before UNWRITTEN, and COPY refuses 0xFF. -/
theorem test_copy_fields : ([(3, 0), (1, 3), (255, 0), (1, 0)] : List (Nat × Nat)).map
    (fun x => statusWord (copyWith drawn x.1 x.2 (ready []))) = [0x242, 0x242, 0x242, 0x252] := by decide +kernel

theorem test_init_mult : let t := initMultWith drawn 2 (ready [none, none, some 9])
    values t = [none, none, some 9, some 9] ∧ statusWord t = 0x00000202 := by decide +kernel

theorem test_init_mult_field : statusWord (initMultWith drawn 3 (ready [some 3])) = 0x00000242 := by decide +kernel

/-- 95_test_vectors.md 2.8.2: `seti 2147483647` ; `get_int`. -/
theorem test_get_int : let t := getIntWith drawn (ready [some 2147483647])
    t.digits.take 3 = [147492147, 5, 0] ∧ t.digits.length = 1024 ∧ statusWord t = 0x00010202 := by decide +kernel

/-- 95_test_vectors.md 2.8.2: `seti -1` ; `get_int`. -/
theorem test_get_int_minus_one : let t := getIntWith drawn (ready [some (399998300 ^ 1024)])
    t.digits.take 2 = [0xFFFFFFFF, 0] ∧ statusWord t = 0x00018202 := by decide +kernel

theorem test_is_one : statusWord (isOneWith drawn (ready [some 1])) = 0x00014202 ∧
    (isOneWith drawn (ready [some 1])).fp = 0 := by decide +kernel

/-- 95_test_vectors.md 2.8.2 and 2.8.6: every digit of n − 2 is b − 1. -/
theorem test_is_one_no : let t := isOneWith drawn (ready [some (399998300 ^ 1024 - 1)])
    t.fp = 0x5B5B5B5B5B5B5B5B ∧ statusWord t = 0x00010202 := by decide +kernel

theorem test_validate : statusWord (validateWith drawn 1 (ready [])) = 0x00000202 ∧
    statusWord (validateWith drawn 0 (ready [])) = 0x00000302 ∧
    statusWord (validateWith drawn 254 (ready [])) = 0x00000242 := by decide +kernel

/-- 44_commands.md R199: r_m by 0xFF; without EXACT it gets some residue. -/
theorem test_validate_r_m : values (validateWith inexact 255 (ready [])) = [none, none, none, some 5] := by
  decide +kernel

/-! ### The window -/

/-- 95_test_vectors.md 2.3: the defined bits of each register. -/
theorem test_masks : (readReg .cfgSize (writeReg .cfgSize 0xFFFFFFFF State.reset)).1 = 0x01FFFF1F ∧
    (readReg .digIdx (writeReg .digIdx 0xFFFFFFFF State.reset)).1 = 0x007FFFFF ∧
    (readReg .rawIdx (writeReg .rawIdx 0xFFFFFFFF State.reset)).1 = 0x01FFFFFF ∧
    (readReg .ctrl (writeReg .ctrl 0xFFFFFFFF State.reset)).1 = 0 := by decide +kernel

/-- 10_state.md R29: ID of the test instance, 0x47040804. -/
theorem test_id : idWordOf 4 8 4 = 0x47040804 ∧ capsWord = 0x0100170A := by decide

/-- 95_test_vectors.md 2.3: accesses of other widths and places are bus errors. -/
theorem test_bus_error : (readOffset 0x00C .w16 State.reset).1 = .busError ∧
    (readOffset 0x00E .w32 State.reset).1 = .busError ∧ (readOffset 0x0FC .w32 State.reset).1 = .data 0 := by
  decide +kernel

/-- 95_test_vectors.md 2.8.4: VALID after `copy r1, r0`. -/
theorem test_valid : validWord (copyWith drawn 1 0 (ready [some 7])) = 0x00000003 ∧
    validWord (readyMul 7 6) = 0x80000001 := by decide +kernel

/-- 10_state.md R45: reads of DIG_DATA move on. -/
theorem test_dig_data : let t := getIntWith drawn (ready [some 2147483647])
    (readReg .digData t).1 = 147492147 ∧ (readReg .digData (readReg .digData t).2).1 = 5 := by decide +kernel

/-- 70_reset_and_hazards.md R226: a word written through RAW_LO and RAW_HI. -/
theorem test_raw_words : let s := { ready [some 7] with rawIdx := 5 }
    let t := writeReg .rawIdx 5 (writeReg .rawHi 0x01020304 (writeReg .rawLo 0xA0B0C0D0 s))
    (readReg .rawLo t).1 = 0xA0B0C0D0 ∧ (readReg .rawHi (readReg .rawLo t).2).1 = 0x01020304 ∧
      values t = [none, none, none, none] := by decide +kernel

/-- 95_test_vectors.md 2.9: PWARN by threshold. -/
theorem test_pwarn : [0xBFF0000000000000, 0x3FE0000000000000, 0x7FF8000000000000, 0x8000000000000000].map
    (pwarnOf 0) = [true, false, false, false] ∧ pwarnOf f64Half f64Half = false ∧ unrecOf f64Half = true := by
  decide

/-- A write of CMD through the bus is accepted (20_memory.md R67, R74; 44_commands.md R187). -/
theorem test_bus_command : (runEvent (memWrite4 0x010 0) State.reset).busy = true ∧
    (runEvent (memWrite4 0x010 0) State.reset).answers = [.done] := by
  constructor <;>
    simp [memWrite4, runEvent, giveAnswer, busWrite, windowOffset, writeOffset, accessAligned, regAtOffset,
      winRegs, offsetOf, writeReg, writeCmd, acceptCommand, latchCommand, State.reset]

/-- The next step runs a word put where the sequencer looks for it. -/
theorem test_fetch_word : statusWord (left (step (State.reset.withFetchWord 32 0x00000000))) = 0x00000002 ∧
    statusWord (left (step (State.reset.withFetchWord 32 0x00000103))) = 0x00000022 := by decide +kernel

/-! ### Witnesses: states and operands that meet the statements' hypotheses -/

theorem witness_DecodeOfEncode : (Instr.copy 255 30).wellFormed = true := by decide

theorem witness_EncodeOfDecode : decode 0x0000FF09 = .ok (.validate 255) := by decide

theorem witness_RowsDecideDecoding : (⟨"COPY", 0x00000004, 0xFF0000FF⟩ : OpRow) ∈ opcodeMap ∧
    OpRow.selects ⟨"COPY", 0x00000004, 0xFF0000FF⟩ 0x00FFFF04 = true := by decide

theorem witness_StepRunsDecoded : (due 0x00000104 (ready [some 7])).busy = true ∧
    (due 0x00000104 (ready [some 7])).remaining = 0 ∧
    decode (due 0x00000104 (ready [some 7])).cmdLat = .ok (.copy 1 0) ∧
    (ready []).busy = false ∧ ({ due 3 (ready []) with remaining := 1 } : State).remaining ≠ 0 := by decide +kernel

theorem witness_IllegalWordCompletes : (∃ e, decode 0x0000000A = .error e) ∧
    (∃ e, decode 0x80000003 = .error e) ∧ (due 0x0000000A (ready [])).busy = true ∧
    (due 0x0000000A (ready [])).remaining = 0 ∧ (ready []).busy = false :=
  ⟨⟨_, rfl⟩, ⟨_, rfl⟩, rfl, rfl, rfl⟩

/-- A running command with an access and a pause before its completion. -/
def running : State := { ready [some 7] with
  busy := true
  cmdLat := 0x00000104
  remaining := 2
  inputs := [memWrite4 0x010 0, .quiet, .resetInput true] }

theorem witness_CommandCompletes : running.busy = true ∧
    ∀ e ∈ running.inputs.take running.remaining, stopsCommand e = false := by
  refine ⟨rfl, fun e he => ?_⟩
  have h : e = memWrite4 0x010 0 ∨ e = .quiet := by simpa [running] using he
  rcases h with rfl | rfl <;> simp [stopsCommand, isSoftReset, memWrite4, offsetOf]

theorem witness_NothingSeenBeforeCompletion : running.busy = true ∧ running.remaining ≠ 0 ∧
    ∀ e, running.inputs.head? = some e → stopsCommand e = false := by
  refine ⟨rfl, by decide, fun e he => ?_⟩
  have h : memWrite4 0x010 0 = e := by simpa [running] using he
  subst h
  simp [stopsCommand, isSoftReset, memWrite4, offsetOf]

theorem witness_ConfigureSucceeds : configAccepted testSizes (latchedCfg (latched 399998300 0x0102020A)) = true ∧
    configAccepted testSizes (latchedCfg (latched 2 0x0000080A)) = true ∧
    configAccepted testSizes (latchedCfg (latched 0xFFFFFFFE 0x01040117)) = true ∧
    configAccepted testSizes (latchedCfg (latched 399998301 0x0102020A)) = false := by decide +kernel

theorem witness_ConfigureEffect : configAccepted testSizes c1024 = true ∧
    configAccepted Config.sizes ⟨399998301, 10, 1, 0, true⟩ = false := ⟨by decide +kernel, rfl⟩

theorem witness_SetEffect : (ready []).engine = .configured c1024 .initialized := rfl

theorem witness_SquareDupEffect : (ready [some 3]).engine = .configured c1024 .initialized ∧
    (ready [some 3]).regs[(0 : RegId)] = some 3 ∧ c1024.checkError = true ∧
    ({ c1024 with checkError := false } : ActiveCfg).checkError = false := by decide +kernel

theorem witness_MulEffect : (readyMul 7 6).engine = .configured c1024 .initialized ∧
    (readyMul 7 6).regs[(0 : RegId)] = some 7 ∧ (readyMul 7 6).regs[regM] = some 6 := by decide +kernel

theorem witness_CopyEffect : (ready [some 7]).engine = .configured c1024 .initialized ∧
    (2 : RegId).val ≤ cfgR c1024 ∧ (0 : RegId).val ≤ cfgR c1024 ∧ (2 : RegId).val ≤ 30 ∧
    (0 : RegId).val ≤ 30 ∧ (ready [some 7]).regs[(0 : RegId)] = some 7 := by decide +kernel

/-- The largest configuration: NUM_REGS = 30, with a value in r_30. -/
theorem witness_InitMultEffect :
    let s : State := { ready [] with
      engine := .configured ⟨2, 23, 64, 30, true⟩ .initialized
      regs := (ready []).regs.set 30 (some 9) }
    s.engine = .configured ⟨2, 23, 64, 30, true⟩ .initialized ∧ (30 : RegId).val ≤ cfgR ⟨2, 23, 64, 30, true⟩ ∧
      (30 : RegId).val ≤ 30 ∧ s.regs[(30 : RegId)] = some 9 := by decide +kernel

theorem witness_GetIntEffect : (ready [some 9]).engine = .configured c1024 .initialized ∧
    (ready [some 9]).regs[(0 : RegId)] = some 9 ∧ 9 < cfgMod c1024 ∧
    (ready [some (399998300 ^ 1024)]).regs[(0 : RegId)] = some (399998300 ^ 1024) ∧
    399998300 ^ 1024 < cfgMod c1024 := by decide +kernel

theorem witness_IsOneEffect : (ready [some 1]).engine = .configured c1024 .initialized ∧
    (ready [some 1]).regs[(0 : RegId)] = some 1 ∧ 1 < cfgMod c1024 ∧ 1 ≠ cfgMod c1024 - 1 ∧
    (ready [some (399998300 ^ 1024)]).regs[(0 : RegId)] = some (cfgMod c1024 - 1) := by decide +kernel

theorem witness_ValidateEffect : (ready []).engine = .configured c1024 .initialized ∧
    ((0xFF = 0xFF ∧ (31 : RegId) = regM) ∨ (0xFF = (31 : RegId).val ∧ (31 : RegId).val ≤ cfgR c1024 ∧ (31 : RegId).val ≤ 30)) ∧
    ((2 = 0xFF ∧ (2 : RegId) = regM) ∨ (2 = (2 : RegId).val ∧ (2 : RegId).val ≤ cfgR c1024 ∧ (2 : RegId).val ≤ 30)) := by
  decide +kernel

/-- The reference datapath. -/
def reference : Draws := { drawn with schedule := .reference }

/-- A block of one sample, whose image is 0 on record. -/
def tiny : State :=
  putImage { ready [] with engine := .configured ⟨2, 0, 1, 0, true⟩ .initialized } ⟨2, 0, 1, 0, true⟩ 0 0
    fun _ => 0

/-- The reference decode of a recorded image of one sample. -/
theorem witness_RestoreGivesRecordedValue : tiny.engine = .configured ⟨2, 0, 1, 0, true⟩ .initialized ∧
    (0 = (0 : RegId).val ∧ (0 : RegId).val ≤ cfgR ⟨2, 0, 1, 0, true⟩ ∧ (0 : RegId).val ≤ 30) ∧
    (⟨⟨2, 0, 1, 0, true⟩, false, [0, 0], 0⟩ : ImageRecord) ∈ tiny.imageLog ∧
    (false = ((0 : RegId) == regM)) ∧ [0, 0] = sampleWords 0 (imgWord tiny 0 0) ∧ reference.exact = true ∧
    decodeValue reference ⟨2, 0, 1, 0, true⟩ 0 tiny = some 0 ∧
    logAgrees tiny ⟨2, 0, 1, 0, true⟩ ((0 : RegId) == regM) (sampleWords 0 (imgWord tiny 0 0)) 0 = true := by decide +kernel

/-- An image on record when the reset input rises, when the host writes a soft reset, and under CONFIGURE. -/
theorem witness_RestoreGivesRecordedValue_kept :
    let r : ImageRecord := ⟨c1024, false, [], 0⟩
    let s : State := { ready [some 3] with imageLog := [r], inputs := [.resetInput true] }
    r ∈ s.imageLog ∧ step s = .next { resetState { s with inputs := [] } with resetIn := true } :=
  ⟨List.mem_singleton.mpr rfl, rfl⟩

/-- The words of r_0's image in a state whose arena lists nothing. -/
def words0 : List DWord := sampleWords 10 (imgWord (ready []) 10 0)

/-- What an instance of another schedule decodes from them. -/
def decoded0 : Nat := residueOf (cfgMod c1024) (Config.otherDecode ((0 : RegId) == regM) 399998300 10 words0)

/-- The same in C1024, under another schedule, with the image on record. -/
theorem witness_RestoreGivesRecordedValue_other :
    let s : State := { ready [] with imageLog := [⟨c1024, (0 : RegId) == regM, words0, decoded0⟩] }
    s.engine = .configured c1024 .initialized ∧
      (0 = (0 : RegId).val ∧ (0 : RegId).val ≤ cfgR c1024 ∧ (0 : RegId).val ≤ 30) ∧
      (⟨c1024, (0 : RegId) == regM, words0, decoded0⟩ : ImageRecord) ∈ s.imageLog ∧
      words0 = sampleWords (cfgL c1024) (imgWord s (cfgL c1024) 0) ∧ drawn.exact = true ∧
      decodeValue drawn c1024 0 s = some decoded0 ∧
      logAgrees s c1024 ((0 : RegId) == regM) (sampleWords (cfgL c1024) (imgWord s (cfgL c1024) 0)) decoded0 = true := by
  refine ⟨rfl, by decide, List.mem_singleton.mpr rfl, rfl, rfl, rfl, ?_⟩
  simp [logAgrees]

/-- One state for each code, with the command due. -/
theorem witness_ChecksDecideCode :
    firstError (due 0x0000000A (ready [])) = some .illegal ∧ firstError (due 3 State.reset) = some .state ∧
      firstError (due 0x00000304 (ready [])) = some .reg ∧ firstError (due 6 (ready [some 3])) = some .unwritten ∧
      firstError (due 1 (latched 399998301 0x0100010A)) = some .config ∧ firstError (due 0 (ready [])) = none ∧
      firstError (due 0x0000FF09 (ready [])) = none ∧ firstError (due 3 (ready [some 3])) = none ∧
      firstError (due 0x00000309 (ready [])) = some .reg ∧ firstError (due 0x00000209 (ready [])) = none ∧
      (∀ c p, (due 0 (ready [])).engine = .configured c p → c.numRegs.toNat ≤ 30) ∧
      (due 0 (ready [])).busy = true ∧ (due 0 (ready [])).remaining = 0 :=
  ⟨rfl, rfl, rfl, rfl, rfl, rfl, rfl, rfl, rfl, rfl, fun _ _ h => by cases h; decide, rfl, rfl⟩

theorem witness_ErrorsArePrecise : (due 0x0000000A (ready [])).busy = true ∧
    (due 0x0000000A (ready [])).remaining = 0 ∧
    step (due 0x0000000A (ready [])) = .next (complete .illegal (due 0x0000000A (ready []))) ∧
    (complete .illegal (due 0x0000000A (ready []))).errCode ≠ .ok := ⟨rfl, rfl, rfl, by decide⟩

/-- ERR at both ends of its range, and thresholds of each clause. -/
theorem witness_PrecisionFlagRules : (0 : F64).toNat < errPatterns ∧ f64Half.toNat < errPatterns ∧
    f64IsNaN 0x7FF8000000000000 = true ∧
    (f64IsNaN 0x8000000000000001 = false ∧ (0x8000000000000001 : F64).msb = true ∧
      f64IsZero 0x8000000000000001 = false) ∧
    ((0x3FE0000000000000 : F64).msb = false ∧ f64IsNaN 0x3FE0000000000000 = false) ∧
    f64IsZero 0x8000000000000000 = true ∧ f64IsZero 0 = true := by decide

theorem witness_BusErrorChangesNothing : (AccessWidth.w64 ≠ .w32 ∨ 0 % 4 ≠ 0) ∧
    (AccessWidth.w32 ≠ .w32 ∨ 0x0E % 4 ≠ 0) ∧ 255 < 256 ∧ State.reset.resetIn = false ∧
    Config.base + 256 ≤ Config.base + 256 := ⟨by decide, by decide, by decide, rfl, le_refl _⟩

theorem witness_UnnamedAndReserved : (∀ r, offsetOf r ≠ 0x06C) ∧ (∀ r, offsetOf r ≠ 0x0FC) ∧
    0x0FC < 256 ∧ 0x0FC % 4 = 0 ∧
    ({ State.reset with cfgSize := 0x01FFFF1F } : State).cfgSize &&& cfgSizeMask = 0x01FFFF1F := by
  refine ⟨fun r => ?_, fun r => ?_, by decide⟩ <;> cases r <;> decide

theorem witness_ReadsWithoutEffect : (0x00C ≠ offsetOf .digData ∧ 0x00C ≠ offsetOf .rawLo ∧
    0x00C ≠ offsetOf .rawHi) ∧ (0x0FF ≠ offsetOf .digData ∧ 0x0FF ≠ offsetOf .rawLo ∧
    0x0FF ≠ offsetOf .rawHi) := by decide

theorem witness_WrittenRegistersReadBack : (0xFFFFFFFD : Word).getLsbD 1 = false ∧ (ready []).busy = false := by
  decide

/-- The last digit is reached, the place after it is not. -/
theorem witness_DigitWindow :
    let s : State := { ready [] with dvalid := true, digits := List.replicate 1024 7, digIdx := 1023 }
    s.engine = .configured c1024 .initialized ∧ s.busy = false ∧ s.dvalid = true ∧
      s.digIdx.toNat < nLen (cfgL c1024) ∧ nLen (cfgL c1024) ≤ ({ s with digIdx := 1024 } : State).digIdx.toNat ∧
      State.reset.engine = .unconfigured ∧ running.busy = true ∧ (ready []).dvalid = false := by decide +kernel

/-- The last digit of the largest N (log 22). -/
theorem witness_DigitWindow_last : (⟨2, 23, 64, 30, true⟩ : ActiveCfg).log2n.toNat = 23 ∧
    (8388607 : BitVec 23).toNat < nLen (cfgL ⟨2, 23, 64, 30, true⟩) ∧ (8388607 + 1 : BitVec 23) = 0 := by decide

/-- The last raw word of r_m is reached; the word after it and a selection past NUM_REGS are not. -/
theorem witness_RawLowHalf :
    let s : State := { ready [] with rawSel := 0xFF, rawIdx := 2175 }
    s.engine = .configured c1024 .initialized ∧ (s.rawSel.toNat = 0xFF ∧ (31 : RegId) = 31) ∧ s.busy = false ∧
      s.rawIdx.toNat < rawWordsOf (cfgL c1024) ∧
      rawWordsOf (cfgL c1024) ≤ ({ s with rawIdx := 2176 } : State).rawIdx.toNat ∧
      ((3 : BitVec 8).toNat ≠ 0xFF ∧ cfgR c1024 < (3 : BitVec 8).toNat) ∧ State.reset.engine = .unconfigured ∧ running.busy = true := by decide +kernel

theorem witness_RawHighHalf :
    let s : State := { ready [] with rawSel := 2, rawIdx := 0 }
    s.engine = .configured c1024 .initialized ∧
      (s.rawSel.toNat = (2 : RegId).val ∧ (2 : RegId).val ≤ cfgR c1024 ∧ (2 : RegId).val ≤ 30) ∧ s.busy = false ∧
      s.rawIdx.toNat < rawWordsOf (cfgL c1024) ∧
      rawWordsOf (cfgL c1024) ≤ ({ s with rawIdx := 2176 } : State).rawIdx.toNat ∧
      ((0xFE : BitVec 8).toNat ≠ 0xFF ∧ cfgR c1024 < (0xFE : BitVec 8).toNat) ∧ State.reset.engine = .unconfigured ∧ running.busy = true := by decide +kernel

theorem witness_RawWordRoundTrip :
    let s : State := { ready [] with rawSel := 0, rawIdx := 2175 }
    s.engine = .configured c1024 .initialized ∧
      (s.rawSel.toNat = (0 : RegId).val ∧ (0 : RegId).val ≤ cfgR c1024 ∧ (0 : RegId).val ≤ 30) ∧ s.busy = false ∧
      s.rawIdx.toNat < rawWordsOf (cfgL c1024) := by decide +kernel

theorem witness_CommandAccepted : (ready []).busy = false := rfl

theorem witness_CommandDropped : running.busy = true ∧ (0x00000004 : Word).getLsbD 2 = true := by decide

theorem witness_ResetsGiveResetState : (0x00000002 : Word).getLsbD 1 = true ∧
    ({ running with resetIn := true } : State).resetIn = true ∧ 255 < 256 := by decide

theorem witness_RegistersAfterReset : (WinReg.status ≠ .id ∧ WinReg.status ≠ .caps ∧
    WinReg.status ≠ .threshLo ∧ WinReg.status ≠ .threshHi) := by decide

/-- The registers just above NUM_REGS and r_30 hold nothing. -/
theorem witness_ValidBits : RegsOk (ready [some 7, none, some 8]) ∧
    (ready [some 7, none, some 8]).engine = .configured c1024 .initialized ∧
    cfgR c1024 < (3 : RegId).val ∧ (3 : RegId).val ≤ 30 ∧ cfgR c1024 < (30 : RegId).val := by
  refine ⟨fun j v h => ⟨c1024, .initialized, rfl, ?_⟩, by decide +kernel⟩
  have key : ∀ j : RegId, (ready [some 7, none, some 8]).regs[j] = none ∨
      ((ready [some 7, none, some 8]).regs[j]).all (· < 9) = true ∧ j.val ≤ 2 := by decide +kernel
  rcases key j with hn | ⟨hv, hj⟩
  · rw [hn] at h; cases h
  · rw [h] at hv
    have h9 : v < 9 := by simpa using hv
    exact ⟨lt_trans h9 (by decide +kernel), .inr hj⟩

theorem witness_InterruptLevel : ({ ready [] with ie := true } : State).ie = true ∧
    ({ ready [] with done := true } : State).done = true ∧ (0x00000001 : Word).getLsbD 0 = true ∧
    (0x00000001 : Word).getLsbD 1 = false ∧ (0x00000002 : Word).getLsbD 1 = true ∧
    (0x00000002 : Word).getLsbD 0 = false ∧ (ready []).busy = false ∧
    ({ State.reset with resetIn := true } : State).resetIn = true := by decide

theorem witness_WindowsWhileBusy : running.busy = true := rfl

theorem witness_IdentityAndReadOuts : State.reset.engine = .unconfigured ∧
    (ready []).engine = .configured c1024 .initialized ∧ cfgL c1024 ≤ 23 := by decide

/-- The smallest and the largest sizes, with two registers of each. -/
theorem witness_ArenaViews : (10 ≤ 10 ∧ 10 ≤ 23 ∧ 0 ≤ 30) ∧ (10 ≤ 23 ∧ 23 ≤ 23 ∧ 30 ≤ 30) ∧
    ((31 : RegId) = regM ∨ (31 : RegId).val ≤ 0) ∧ ((0 : RegId) = regM ∨ (0 : RegId).val ≤ 0) ∧
    (31 : RegId) ≠ 0 ∧ ((30 : RegId) = regM ∨ (30 : RegId).val ≤ 30) ∧ (30 : RegId) ≠ 31 := by decide

/-- The last sample of row 15 and the first word of the gap after it. -/
theorem witness_SampleWordPlaces : 10 ≤ 10 ∧ 10 ≤ 23 ∧ 1023 < nLen 10 ∧ 2168 < rawWordsOf 10 ∧
    ∀ k, k < nLen 10 → 2168 ≠ 2 * padIndex 10 k ∧ 2168 ≠ 2 * padIndex 10 k + 1 := by
  refine ⟨by decide, by decide, by decide, by decide, fun k hk => ?_⟩
  simp only [nLen, padIndex, nio, nioLog] at *
  norm_num at *
  omega

/-- A running NOP after reset, one step before its completion. -/
def runningNop : State := { State.reset with busy := true, remaining := 1, inputs := [.quiet] }

theorem runningNop_inv : Inv runningNop where
  memory := { canonical := List.Pairwise.nil, inside := fun _ h => absurd h (List.not_mem_nil) }
  engine := {
    accepted := fun _ _ h => by cases h
    baseParams := fun _ _ h => by cases h
    constructed := fun _ h => by cases h
    decoded := fun h => by cases h }
  regs := fun j v h => by simp [runningNop, State.reset] at h
  status := {
    cfgSize := by decide
    cfgLatSize := by decide
    busyDone := fun _ => rfl
    errRange := by decide
    heldIdle := fun h => by cases h }

theorem witness_StepKeepsInvariant : Inv runningNop ∧ ∃ t, step runningNop = .next t :=
  ⟨runningNop_inv, _, rfl⟩

theorem witness_StepKeepsImagesRecorded : Inv runningNop ∧ Recorded runningNop ∧
    ∃ t, step runningNop = .next t :=
  ⟨runningNop_inv, fun j v h => by simp [runningNop, State.reset] at h, _, rfl⟩

/-- A record that is true of a register with a value: COPY of r_0 to r_1. -/
theorem witness_Recorded : (⟨c1024, false, words0, 7⟩ : ImageRecord) ∈
      ({ ready [some 7] with imageLog := [⟨c1024, false, words0, 7⟩] } : State).imageLog ∧
    words0 = sampleWords (cfgL c1024) (imgWord { ready [some 7] with imageLog := [⟨c1024, false, words0, 7⟩] } (cfgL c1024) 0) :=
  ⟨List.mem_singleton.mpr rfl, rfl⟩

theorem witness_CarryBounds : 2 ≤ 10 ∧ ∀ o ∈ ([-95, 95, 40] : List Int), o.natAbs ≤ 95 := by decide

theorem witness_CarryRowsKeepSum : 0 < 10 ∧ ([9, 9, 9] : List Int) ≠ [] := by decide

theorem witness_PassesKeepValue : 0 < (exactEvaluator 399998300).b ∧ (exactEvaluator 399998300).b < 2 ^ 32 ∧
    10 ≤ 10 ∧ 10 ≤ 23 ∧ 1 ≤ 8 ∧ 8 ≤ g8 10 := by decide

theorem witness_UnbalanceByValue : 2 ≤ 2 ∧ (List.replicate 1024 (-1 : Int)).length = 1024 ∧
    ∀ z ∈ List.replicate 1024 (-1 : Int), z.natAbs < 2 ^ 63 := by
  refine ⟨le_refl _, List.length_replicate, fun z hz => ?_⟩
  rw [(List.mem_replicate.mp hz).2]
  decide

/-- The largest value below −1, and −1. -/
theorem witness_CanonicalForm : 2 ≤ 10 ∧ 1 ≤ 4 ∧ 9999 ≤ 10 ^ 4 ∧ 9999 < 10 ^ 4 ∧ 10000 ≤ 10 ^ 4 ∧ 10000 = 10 ^ 4 := by
  decide

theorem witness_FingerprintBytes : 8 ≤ ([1, 2, 3, 4, 5, 6, 7, -8] : List Int).length ∧ 7 < 8 ∧ 2 ≤ 2 ∧
    1024 ≤ 1024 := by decide

theorem witness_IsOneExactlyForOne : 2 ≤ 2 ∧ 1 ≤ 1024 ∧ 1 ≤ 2 ^ 1024 := by decide +kernel

/-- The ends of the range of an i32, and both clauses of the sum. -/
theorem witness_BalancedExpansion : (399998300 % 2 = 0 ∧ 2 ≤ 399998300 ∧ 1024 ≤ 1024) ∧
    (-2 ^ 31 ≤ (-2147483648 : Int) ∧ (-2147483648 : Int) < 2 ^ 31 ∧ (4 ≤ 399998300 ∨ 0 ≤ (-2147483648 : Int))) ∧
    (-2 ^ 31 ≤ (2147483647 : Int) ∧ (2147483647 : Int) < 2 ^ 31 ∧ (4 ≤ 2 ∨ 0 ≤ (2147483647 : Int))) := by decide

theorem witness_SplitBounds : 0 < 399998300 ∧ 2 * |(199999150 : Int)| ≤ (399998300 : Nat) ∧
    2 * |(-199999150 : Int)| ≤ (399998300 : Nat) := by decide

/-- One PE and eight; the last group and row; two groups of different PEs; a row PE 0 does not own. -/
theorem witness_ColumnGroupsPartitioned : (1 ≤ 1 ∧ 1 ≤ g8 10) ∧ (1 ≤ 8 ∧ 8 ≤ g8 10) ∧ 7 < 8 ∧ 7 < g8 10 ∧
    groupOwner 10 8 0 ≠ groupOwner 10 8 7 ∧ 15 < rowsOf 10 ∧ 1023 < nLen 10 ∧ 1023 / nio 10 = 15 ∧
    ownsRow 10 8 0 1 = false ∧ ownsRow 10 8 0 15 = true := by decide +kernel

theorem witness_OuterTransformIsItsLevels : (10 ≤ 10 ∧ 10 ≤ 23 ∧ 1023 < nLen 10) ∧
    (10 ≤ 11 ∧ 11 ≤ 23 ∧ 2047 < nLen 11) ∧ innerLevelList 10 = [4, 5, 6, 7, 8, 9] ∧
    innerLevels 10 (lS 10) = [4, 6, 8] ∧ outerLevels (lS 11) = [3] := by decide

/-- 4·(1 + 1) = 1 and 2·4 = 1 in the integers modulo 7. -/
def roots7 : Roots (ZMod 7) := ⟨2, fun _ _ => ⟨2, 1⟩⟩

theorem witness_RoundTripGains : ExactRoots roots7 ∧ 10 ≤ 10 ∧ 10 ≤ 23 ∧ 1023 < nLen 10 :=
  ⟨⟨fun _ _ _ _ => by simp only [roots7]; decide, by simp only [roots7]; decide⟩, by decide⟩

/-- The roots of x⁴ = −1 over the integers modulo 7: i, 2 + 2i and 2 − 2i. -/
def tree7 (s j : Nat) : Cx (ZMod 7) :=
  if s = 0 then ⟨0, 1⟩ else if j % 2 = 0 then ⟨2, 2⟩ else ⟨2, -2⟩

theorem witness_LevelsEvaluatePolynomial : 1 ≤ 2 ∧ RootTree tree7 2 ∧ 3 < 2 ^ 2 := by
  refine ⟨by decide, ⟨by decide, fun s j h => ?_, fun s j h => ?_⟩, by decide⟩
  · obtain rfl : s = 0 := by omega
    have h2 : tree7 (0 + 1) (2 * j) = ⟨2, 2⟩ := by simp [tree7]
    rw [h2]
    exact (by decide : cxMul (exactArith (ZMod 7)) ⟨2, 2⟩ ⟨2, 2⟩ = ⟨0, 1⟩)
  · obtain rfl : s = 0 := by omega
    have h2 : tree7 (0 + 1) (2 * j + 1) = ⟨2, -2⟩ := by simp [tree7, Nat.add_mod]
    rw [h2]
    exact (by decide : cxMul (exactArith (ZMod 7)) ⟨2, -2⟩ ⟨2, -2⟩ =
      cxSub (exactArith (ZMod 7)) ⟨0, 0⟩ ⟨0, 1⟩)

theorem witness_PointwiseProducts : 2 * (4 : ZMod 7) = 1 := by decide

theorem witness_TestLoopComputesPower : (∀ _ : Nat, drawn.exact = true) ∧
    (ready [some 1]).engine = .configured c1024 .initialized ∧ (ready [some 1]).regs[(0 : RegId)] = some 1 ∧
    0 < 5 ∧ Instr.squareDup true ∈ testLoop 5 :=
  ⟨fun _ => rfl, by decide +kernel⟩

end Sys2Proof.Tests.Slice0
end

/-!
SUPPORT. Facts about words, images and the residue registers: bits of a packed word, where the images of a
configuration lie, what a write leaves of them, and the ranges of ERR and of the values (10_state.md R28,
R39, R52; 20_memory.md R70, R84, R88).
-/

namespace Sys2Proof.Machine

/-! ### Words and their bits -/

/-- A register of k bits, read in 32: its defined bits are the low k of what was written. -/
theorem setWidth_setWidth_eq_and (v : Word) {k : Nat} (hk : k ≤ 32) :
    (v.setWidth k).setWidth 32 = v &&& BitVec.ofNat 32 (2 ^ k - 1) := by
  have hpow : 2 ^ k ≤ 2 ^ 32 := Nat.pow_le_pow_right (by decide) hk
  have hpos := Nat.two_pow_pos k
  refine BitVec.eq_of_toNat_eq ?_
  rw [BitVec.toNat_setWidth, BitVec.toNat_setWidth, BitVec.toNat_and, BitVec.toNat_ofNat,
    Nat.mod_eq_of_lt (by omega : 2 ^ k - 1 < 2 ^ 32), Nat.and_two_pow_sub_one_eq_mod,
    Nat.mod_eq_of_lt (lt_of_lt_of_le (Nat.mod_lt _ hpos) hpow)]

/-- Bit i of a word, from its number. -/
theorem getLsbD_eq_of_toNat {n : Nat} {x : BitVec n} {i : Nat} {b : Bool}
    (h : x.toNat / 2 ^ i % 2 = b.toNat) : x.getLsbD i = b := by
  rw [BitVec.getLsbD, Nat.testBit_eq_decide_div_mod_eq, h]
  cases b <;> rfl

theorem extractLsb'_toNat_eq {n : Nat} (x : BitVec n) (i k : Nat) :
    (x.extractLsb' i k).toNat = x.toNat / 2 ^ i % 2 ^ k := by
  rw [BitVec.extractLsb'_toNat, Nat.shiftRight_eq_div_pow]

theorem ofNat_getLsbD_zero (v : Word) : BitVec.ofNat 32 (v.getLsbD 0).toNat = v &&& 1 := by
  have h : (v.getLsbD 0).toNat = v.toNat % 2 := by
    rw [BitVec.getLsbD, Nat.testBit_zero]
    obtain h | h := Nat.mod_two_eq_zero_or_one v.toNat <;> rw [h] <;> rfl
  refine BitVec.eq_of_toNat_eq ?_
  rw [h, BitVec.toNat_ofNat, BitVec.toNat_and, show (1 : Word).toNat = 1 from rfl, Nat.and_one_is_mod]
  omega

theorem loHalf_joinHalves (hi lo : Word) : loHalf (joinHalves hi lo) = lo :=
  BitVec.extractLsb'_append_eq_right

theorem hiHalf_joinHalves (hi lo : Word) : hiHalf (joinHalves hi lo) = hi :=
  BitVec.extractLsb'_append_eq_left

/-! ### The registers as a vector -/

theorem getElem_set_reg (rs : Vector (Option Nat) 32) (j k : RegId) (x : Option Nat) :
    (rs.set j x)[k] = if k = j then x else rs[k] := by
  simp only [Fin.getElem_fin, Vector.getElem_set, Fin.ext_iff, eq_comm]

theorem getElem_replicate_reg (j : RegId) :
    (Vector.replicate 32 (none : Option Nat))[j] = none := by
  simp only [Fin.getElem_fin, Vector.getElem_replicate]

theorem regs_resetState (s : State) (j : RegId) : (resetState s).regs[j] = none :=
  getElem_replicate_reg j

/-! ### Where the images lie (20_memory.md R84) -/

/-- Register j exists in a configuration with NUM_REGS = r: it is r_m or one of r_0 … r_r. -/
def HasReg (r : Nat) (j : RegId) : Prop := j = regM ∨ j.val ≤ r

theorem hasReg_zero (r : Nat) : HasReg r 0 := .inr (Nat.zero_le r)

theorem hasReg_regM (r : Nat) : HasReg r regM := .inl rfl

theorem hasReg_of_regOperand {c : ActiveCfg} {i : Nat} {j : RegId} (h : regOperand c i = some j) :
    HasReg (cfgR c) j := by
  obtain ⟨hval, hle, -⟩ := regOperand_some h
  exact .inr (by omega)

theorem viewIndex_le {r : Nat} {j : RegId} (h : HasReg r j) : viewIndex j ≤ r + 1 := by
  rw [viewIndex]
  rcases h with rfl | h
  · simp [regM]
  · split_ifs <;> omega

theorem viewIndex_injective : Function.Injective viewIndex := by
  intro j k h
  simp only [viewIndex, regM, Fin.ext_iff, Fin.val_zero] at h ⊢
  have hm : ((31 : Fin 32) : Nat) = 31 := rfl
  split_ifs at h <;> omega

/-- A view ends where a later one begins, or before. -/
theorem mul_view_le {a b : Nat} (n : Nat) (h : a < b) : a * n + n ≤ b * n := by
  rw [← Nat.succ_mul]
  exact Nat.mul_le_mul_right n h

theorem imageBase_disjoint (l : Nat) {j k : RegId} (h : j ≠ k) :
    imageBase l j + imageBytesOf l ≤ imageBase l k ∨ imageBase l k + imageBytesOf l ≤ imageBase l j :=
  (Nat.lt_or_gt_of_ne (viewIndex_injective.ne h)).imp (mul_view_le _) (mul_view_le _)

theorem imageBase_le_scratchBase (l : Nat) {r : Nat} {j : RegId} (h : HasReg r j) :
    imageBase l j + imageBytesOf l ≤ scratchBase l r :=
  mul_view_le _ (Nat.lt_succ_of_le (viewIndex_le h))

theorem scratchBase_le_arenaUsed (c : ActiveCfg) :
    scratchBase (cfgL c) (cfgR c) + imageBytesOf (cfgL c) ≤ arenaUsed c :=
  mul_view_le _ (Nat.lt_succ_self _)

theorem imageBase_le_arenaUsed {c : ActiveCfg} {j : RegId} (h : HasReg (cfgR c) j) :
    imageBase (cfgL c) j + imageBytesOf (cfgL c) ≤ arenaUsed c :=
  (imageBase_le_scratchBase _ h).trans (Nat.le_of_add_right_le (scratchBase_le_arenaUsed c))

/-- A raw word lies inside its image (20_memory.md R82, R88). -/
theorem rawWord_inside {l w : Nat} (h : w < rawWordsOf l) : 8 * w + 8 ≤ imageBytesOf l := by
  rw [rawWordsOf] at h
  rw [imageBytesOf]
  omega

/-! ### Images after a write -/

/-- The image of a register that a write does not reach reads as before. -/
theorem imgWord_of_bytesKeptOutside {s t : State} {lo len l : Nat} {j : RegId}
    (hk : BytesKeptOutside lo len s t)
    (hd : imageBase l j + imageBytesOf l ≤ lo ∨ lo + len ≤ imageBase l j) {w : Nat}
    (hw : w < rawWordsOf l) : imgWord t l j w = imgWord s l j w := by
  have := rawWord_inside hw
  exact arenaWord_congr fun i hi => hk _ (by omega)

theorem bytesKeptOutside_of_write {s t : State} {a : Nat} {bs : List Byte} (he : t.epoch = s.epoch)
    (ht : t.arena = memWriteBytes s.arena a bs) : BytesKeptOutside a bs.length s t :=
  fun _ hx => arenaByte_of_write he ht hx

theorem bytesKeptOutside_of_imageWrite {s t : State} {a l : Nat} {f : Nat → DWord}
    (he : t.epoch = s.epoch) (ht : t.arena = memWriteBytes s.arena a (imageBytes l f)) :
    BytesKeptOutside a (imageBytesOf l) s t := by
  have h := bytesKeptOutside_of_write he ht
  rwa [imageBytes_length] at h

/-- The word a write of bytes leaves where it was written. -/
theorem arenaWord_of_write {s t : State} {a : Nat} {x : DWord}
    (ht : t.arena = memWriteBytes s.arena a (wordBytes x)) : arenaWord t a = x := by
  refine arenaWord_of_bytes fun i hi => ?_
  rw [arenaByte, ht, memRead_memWriteBytes, wordBytes_length, if_pos (by omega), Nat.add_sub_cancel_left,
    wordBytes_getElem? x i hi]
  rfl

theorem sampleWords_congr {l : Nat} {f g : Nat → DWord} (h : ∀ w, w < rawWordsOf l → f w = g w) :
    sampleWords l f = sampleWords l g :=
  List.map_congr_left fun w hw => h w (List.mem_range.mp (List.mem_filter.mp hw).1)

theorem mem_memWriteBytes {m : Memory} {a : Nat} {bs : List Byte} {x : Host.Cell}
    (h : x ∈ memWriteBytes m a bs) : x ∈ m ∨ x.1 < a + bs.length := by
  simp only [memWriteBytes, List.mem_append, List.mem_filter] at h
  obtain (⟨hm, -⟩ | hc) | ⟨hm, -⟩ := h
  · exact .inl hm
  · exact .inr (mem_cellsFrom (List.mem_map_of_mem hc)).2
  · exact .inl hm

/-! ### ERR stays in [+0, 0.5] (42_passes.md R175, R176) -/

theorem zero_inRange : (0 : F64).toNat < errPatterns := by decide

theorem f64Half_inRange : f64Half.toNat < errPatterns := by decide

theorem clampErr_inRange (x : F64) : (clampErr x).toNat < errPatterns := by
  unfold clampErr
  split
  · assumption
  · exact f64Half_inRange

theorem errorValue_inRange (b : Nat) (e : Option Surd) : (errorValue b e).toNat < errPatterns := by
  cases e with
  | none => exact f64Half_inRange
  | some x => exact clampErr_inRange _

theorem f64Max_inRange {x y : F64} (hx : x.toNat < errPatterns) (hy : y.toNat < errPatterns) :
    (f64Max x y).toNat < errPatterns := by
  unfold f64Max
  split <;> assumption

theorem combineErr_inRange {acc : List F64} (h : ∀ e ∈ acc, e.toNat < errPatterns) :
    (combineErr acc).toNat < errPatterns :=
  List.foldlRecOn (motive := fun m : F64 => m.toNat < errPatterns) acc _ zero_inRange
    fun _ hm e he => f64Max_inRange (h e he) hm

theorem runPasses_errAcc_inRange (W : LaneWidth) (ev : Evaluator) (l t g : Nat) (z : Samples) :
    ∀ e ∈ (runPasses W ev l t g z).2.2, e.toNat < errPatterns := by
  intro e he
  obtain ⟨pe, -, rfl⟩ := List.mem_map.mp he
  exact errorValue_inRange _ _

/-- A drawn accumulator is in range by its type. -/
theorem ofNat_errv_inRange (x : Fin errPatterns) : (BitVec.ofNat 64 x.val).toNat < errPatterns := by
  rw [BitVec.toNat_ofNat]
  exact lt_of_le_of_lt (Nat.mod_le _ _) x.isLt

theorem squareOut_err_inRange (d : Draws) (c : ActiveCfg) (s : State) (g : Nat) (z : Samples) :
    (squareOut d c s g z).err.toNat < errPatterns := by
  unfold squareOut
  split
  · refine combineErr_inRange fun e he => ?_
    split at he
    · exact runPasses_errAcc_inRange _ _ _ _ _ _ e he
    · exact List.eq_of_mem_replicate he ▸ zero_inRange
  · refine combineErr_inRange fun e he => ?_
    obtain ⟨pe, -, rfl⟩ := List.mem_map.mp he
    split
    · exact ofNat_errv_inRange _
    · exact zero_inRange

/-! ### Values and digits -/

theorem cfgMod_pos (c : ActiveCfg) : 0 < cfgMod c := Nat.succ_pos _

theorem validateValue_lt (d : Draws) (c : ActiveCfg) (j : RegId) (s : State) :
    validateValue d c j s < cfgMod c := by
  have hdec : ∀ v, decodeValue d c j s = some v → v < cfgMod c := by
    intro v hv
    unfold decodeValue at hv
    split at hv
    · obtain ⟨z, -, rfl⟩ := Option.map_eq_some_iff.mp hv
      exact residueOf_lt _ _ (cfgMod_pos c)
    · cases hv
      exact residueOf_lt _ _ (cfgMod_pos c)
  have hres : d.residue % cfgMod c < cfgMod c := Nat.mod_lt _ (cfgMod_pos c)
  unfold validateValue
  split
  · exact hres
  · next v hv =>
    split
    · exact hdec v hv
    · exact hres

theorem squareValue_lt (d : Draws) (c : ActiveCfg) (dup : Bool) (v : Nat) :
    squareValue d c dup v < cfgMod c := by
  unfold squareValue
  split <;> exact Nat.mod_lt _ (cfgMod_pos c)

theorem mulValue_lt (d : Draws) (c : ActiveCfg) (v u : Nat) : mulValue d c v u < cfgMod c := by
  unfold mulValue
  split <;> exact Nat.mod_lt _ (cfgMod_pos c)

theorem canonOf_length (b n v : Nat) : (canonOf b n v).digits.length = n := by
  unfold canonOf
  split
  · simp [specialForm]
  · simp

theorem readoutCanon_length (d : Draws) (c : ActiveCfg) (v : Nat) :
    (readoutCanon d c v).digits.length = nLen (cfgL c) := canonOf_length _ _ _

/-- A value a register of the configuration holds is a residue. -/
theorem RegsOk.value_lt {s : State} (h : RegsOk s) {c : ActiveCfg} {p : Phase}
    (he : s.engine = .configured c p) {j : RegId} {v : Nat} (hv : s.regs[j] = some v) : v < cfgMod c := by
  obtain ⟨c', p', he', hlt, -⟩ := h j v hv
  cases he.symm.trans he'
  exact hlt

/-- A register that holds a value is one of the configuration's. -/
theorem RegsOk.hasReg {s : State} (h : RegsOk s) {c : ActiveCfg} {p : Phase}
    (he : s.engine = .configured c p) {j : RegId} {v : Nat} (hv : s.regs[j] = some v) : HasReg (cfgR c) j := by
  obtain ⟨c', p', he', -, hj⟩ := h j v hv
  cases he.symm.trans he'
  exact hj

end Sys2Proof.Machine

/-!
SUPPORT. What an access of the host can do: the windows to the digits and to the raw words, writes of
registers, the bus, and what a step can be (10_state.md R28 to R49; 20_memory.md R67 to R76).
-/

namespace Sys2Proof.Machine

/-! ### The windows -/

theorem digitTarget_eq_some {s : State} {c : ActiveCfg} {p : Phase} (he : s.engine = .configured c p)
    (hb : s.busy = false) (hd : s.dvalid = true) (hi : s.digIdx.toNat < nLen (cfgL c)) :
    digitTarget s = some (s.digits.getD s.digIdx.toNat 0) := by
  simp only [digitTarget, he, hb, hd, hi, and_self, if_true]

theorem digitTarget_eq_none {s : State} (h : s.engine = .unconfigured ∨ s.busy = true ∨ s.dvalid = false ∨
    ∃ c p, s.engine = .configured c p ∧ nLen (cfgL c) ≤ s.digIdx.toNat) : digitTarget s = none := by
  obtain he | hb | hd | ⟨c, p, he, hi⟩ := h
  · simp only [digitTarget, he]
  · exact digitTarget_busy hb
  · unfold digitTarget
    split
    · rfl
    · simp [hd]
  · simp only [digitTarget, he, Nat.not_lt.mpr hi, and_false, if_false]

/-- RAW_SEL by number (10_state.md R46). -/
theorem rawSelected_eq_some {c : ActiveCfg} {sel : BitVec 8} {j : RegId}
    (h : (sel.toNat = 0xFF ∧ j = 31) ∨ (sel.toNat = j.val ∧ j.val ≤ cfgR c ∧ j.val ≤ 30)) :
    rawSelected c sel = some j := by
  obtain ⟨hsel, rfl⟩ | ⟨hsel, hr, h30⟩ := h
  · rw [rawSelected, validateOperand, if_pos hsel, regM]
  · rw [rawSelected, validateOperand, if_neg (by omega), hsel, regOperand, dif_pos ⟨hr, h30⟩]

theorem rawSelected_eq_none {c : ActiveCfg} {sel : BitVec 8} (hff : sel.toNat ≠ 0xFF)
    (hr : cfgR c < sel.toNat) : rawSelected c sel = none := by
  rw [rawSelected, validateOperand, if_neg hff, regOperand, dif_neg (by omega)]

theorem rawTarget_eq_some {s : State} {c : ActiveCfg} {p : Phase} {j : RegId}
    (he : s.engine = .configured c p) (hsel : rawSelected c s.rawSel = some j)
    (hb : s.busy = false) (hi : s.rawIdx.toNat < rawWordsOf (cfgL c)) :
    rawTarget s = some (cfgL c, j, s.rawIdx.toNat) := by
  simp only [rawTarget, he, hsel, hb, hi, and_self, if_true]

theorem rawTarget_eq_none {s : State} (h : s.engine = .unconfigured ∨ s.busy = true ∨
      ∃ c p, s.engine = .configured c p ∧
        ((s.rawSel.toNat ≠ 0xFF ∧ cfgR c < s.rawSel.toNat) ∨ rawWordsOf (cfgL c) ≤ s.rawIdx.toNat)) :
    rawTarget s = none := by
  obtain he | hb | ⟨c, p, he, ⟨hff, hr⟩ | hi⟩ := h
  · simp only [rawTarget, he]
  · exact rawTarget_busy hb
  · simp only [rawTarget, he, rawSelected_eq_none hff hr]
  · simp only [rawTarget, he, Nat.not_lt.mpr hi, and_false, if_false]
    split <;> rfl

theorem writeRawHi_none {s : State} (h : rawTarget s = none) (v : Word) : writeRawHi v s = s := by
  simp only [writeRawHi, h]

theorem writeRawHi_some {s : State} {l : Nat} {j : RegId} {w : Nat} (h : rawTarget s = some (l, j, w))
    (v : Word) : writeRawHi v s = { s with
      arena := memWriteBytes s.arena (imageBase l j + 8 * w) (wordBytes (joinHalves v s.rawHold))
      rawIdx := s.rawIdx + 1
      regs := s.regs.set j none } := by
  simp only [writeRawHi, h]

/-- What a write of RAW_HI leaves in the word it reaches (10_state.md R49). -/
theorem imgWord_writeRawHi {s : State} {l : Nat} {j : RegId} {w : Nat} (h : rawTarget s = some (l, j, w))
    (v : Word) : imgWord (writeRawHi v s) l j w = joinHalves v s.rawHold :=
  arenaWord_of_write (s := s) (by rw [writeRawHi_some h])

/-- A write of RAW_HI changes no byte outside the word it reaches (10_state.md R49). -/
theorem bytesKept_writeRawHi {s : State} {l : Nat} {j : RegId} {w : Nat}
    (h : rawTarget s = some (l, j, w)) (v : Word) :
    BytesKeptOutside (imageBase l j + 8 * w) 8 s (writeRawHi v s) := by
  have hk : BytesKeptOutside (imageBase l j + 8 * w) (wordBytes (joinHalves v s.rawHold)).length s
      (writeRawHi v s) :=
    bytesKeptOutside_of_write (by rw [writeRawHi_some h]) (by rw [writeRawHi_some h])
  rwa [wordBytes_length] at hk

theorem regs_writeRawHi {s : State} {l : Nat} {j : RegId} {w : Nat} (h : rawTarget s = some (l, j, w))
    (v : Word) : (writeRawHi v s).regs = s.regs.set j none := by
  rw [writeRawHi_some h]

/-! ### Writes of registers -/

theorem writeReg_maxErrLo {s : State} (hb : s.busy = false) (v : Word) :
    writeReg .maxErrLo v s = { s with maxErr := joinHalves (hiHalf s.maxErr) v } := by
  simp only [writeReg, hb, Bool.false_eq_true, if_false]

theorem writeReg_maxErrHi {s : State} (hb : s.busy = false) (v : Word) :
    writeReg .maxErrHi v s = { s with maxErr := joinHalves v (loHalf s.maxErr) } := by
  simp only [writeReg, hb, Bool.false_eq_true, if_false]

theorem writeReg_ctrl {s : State} {v : Word} (hv : v.getLsbD 1 = false) :
    writeReg .ctrl v s = { s with ie := v.getLsbD 0 } := by
  simp only [writeReg, writeCtrl, hv, Bool.false_eq_true, if_false]

/-! ### Steps that leave registers, images and digits alone -/

/-- What the invariant of the registers, images and digits is about is unchanged. -/
structure CoreKept (s t : State) : Prop where
  engine : t.engine = s.engine
  regs : t.regs = s.regs
  arena : t.arena = s.arena
  epoch : t.epoch = s.epoch
  sbHi : t.sbHi = s.sbHi
  sbLo : t.sbLo = s.sbLo
  dvalid : t.dvalid = s.dvalid
  digits : t.digits = s.digits
  imageLog : t.imageLog = s.imageLog

theorem CoreKept.refl (s : State) : CoreKept s s := ⟨rfl, rfl, rfl, rfl, rfl, rfl, rfl, rfl, rfl⟩

theorem complete_coreKept (e : ErrCode) (s : State) : CoreKept s (complete e s) :=
  ⟨rfl, rfl, rfl, rfl, rfl, rfl, rfl, rfl, rfl⟩

theorem readReg_coreKept (r : WinReg) (s : State) : CoreKept s (readReg r s).2 := by
  obtain h | h | ⟨x, h⟩ | h := readReg_state r s <;> rw [h] <;>
    exact ⟨rfl, rfl, rfl, rfl, rfl, rfl, rfl, rfl, rfl⟩

theorem giveAnswer_coreKept (r : BusAnswer × State) : CoreKept r.2 (giveAnswer r) :=
  ⟨rfl, rfl, rfl, rfl, rfl, rfl, rfl, rfl, rfl⟩

/-- What a write of a register can do to registers, images and digits: nothing, a soft reset, or what a
write of RAW_HI does. -/
theorem writeReg_cases (r : WinReg) (v : Word) (s : State) :
    CoreKept s (writeReg r v s) ∨ writeReg r v s = resetState s ∨ writeReg r v s = writeRawHi v s := by
  cases r with
  | ctrl =>
    simp only [writeReg, writeCtrl]
    split
    · exact .inr (.inl rfl)
    · exact .inl ⟨rfl, rfl, rfl, rfl, rfl, rfl, rfl, rfl, rfl⟩
  | cmd =>
    simp only [writeReg, writeCmd]
    split <;> exact .inl ⟨rfl, rfl, rfl, rfl, rfl, rfl, rfl, rfl, rfl⟩
  | maxErrLo | maxErrHi =>
    simp only [writeReg]
    split <;> exact .inl ⟨rfl, rfl, rfl, rfl, rfl, rfl, rfl, rfl, rfl⟩
  | rawHi => exact .inr (.inr rfl)
  | _ => exact .inl ⟨rfl, rfl, rfl, rfl, rfl, rfl, rfl, rfl, rfl⟩

/-- The raw window reaches only registers of the configuration (10_state.md R46). -/
theorem rawTarget_hasReg {s : State} {l : Nat} {j : RegId} {w : Nat} (h : rawTarget s = some (l, j, w)) :
    ∃ c p, s.engine = .configured c p ∧ l = cfgL c ∧ HasReg (cfgR c) j ∧ w < rawWordsOf l := by
  obtain ⟨c, p, he, hsel, -, hl, -, hw⟩ := rawTarget_some h
  exact ⟨c, p, he, hl, validateOperand_some hsel, hw⟩

/-! ### The bus -/

theorem regAtOffset_offsetOf (r : WinReg) : regAtOffset (offsetOf r) = some r := by
  cases r <;> rfl

theorem accessAligned_offsetOf (r : WinReg) : accessAligned (offsetOf r) .w32 = true := by
  cases r <;> rfl

theorem accessAligned_eq_false {off : Nat} {width : AccessWidth} (h : width ≠ .w32 ∨ off % 4 ≠ 0) :
    accessAligned off width = false := by
  rw [accessAligned, Bool.and_eq_false_iff, beq_eq_false_iff_ne, beq_eq_false_iff_ne]
  exact h

theorem windowOffset_inside {off : Nat} (h : off < 256) : windowOffset (Config.base + off) = some off := by
  rw [windowOffset, if_pos ⟨Nat.le_add_right _ _, by omega⟩, Nat.add_sub_cancel_left]

theorem windowOffset_outside {addr : Nat} (h : addr < Config.base ∨ Config.base + 256 ≤ addr) :
    windowOffset addr = none := by
  rw [windowOffset, if_neg (by omega)]

/-- A read through the bus changes nothing, or is the read of a register. -/
theorem busRead_state (addr : Nat) (width : AccessWidth) (s : State) :
    (busRead addr width s).2 = s ∨ ∃ r, (busRead addr width s).2 = (readReg r s).2 := by
  unfold busRead readOffset
  split
  · exact .inl rfl
  · split
    · exact .inl rfl
    · split
      · split
        · exact .inl rfl
        · exact .inr ⟨_, rfl⟩
      · exact .inl rfl

/-- A write through the bus changes nothing, or is the write of a register while the reset input is
released. -/
theorem busWrite_state (addr : Nat) (width : AccessWidth) (x : DWord) (s : State) :
    (busWrite addr width x s).2 = s ∨
      (s.resetIn = false ∧ ∃ r v, (busWrite addr width x s).2 = writeReg r v s) := by
  unfold busWrite writeOffset
  split
  · exact .inl rfl
  · split
    · exact .inl rfl
    · next hr =>
      split
      · split
        · exact .inl rfl
        · exact .inr ⟨by simpa using hr, _, _, rfl⟩
      · exact .inl rfl

end Sys2Proof.Machine

/-!
SUPPORT. How a command ends: with a code and nothing else, as CONFIGURE, or with what a residue command
writes (44_commands.md R190 to R199; 60_exceptions.md R206).
-/

namespace Sys2Proof.Machine

/-! ### What a command writes before it ends -/

theorem setPhase_self {s : State} {c : ActiveCfg} {p : Phase} (h : s.engine = .configured c p) :
    setPhase s c p = s := by
  rw [setPhase, ← h]

/-- What a residue command that ends with OK has written when it finishes, in a state with configuration
c and phase p (44_commands.md R192 to R199): a register with an image and perhaps an error metric, the
verdict of a VALIDATE, or a decode. -/
inductive CommandWrites (c : ActiveCfg) (p : Phase) (s : State) : State → Prop
  | image (j : RegId) (v : Nat) (f : Nat → DWord) (q : Phase) (err maxErr : F64) (pwarn unrec : Bool)
      (carry : List (List Int)) (errAcc : List F64) (hreg : HasReg (cfgR c) j) (hval : v < cfgMod c)
      (hphase : q = .constructed → j ≠ 0 ∧ p = .constructed) (herr : err.toNat < errPatterns) :
      CommandWrites c p s { setPhase (putImage s c j v f) c q with
        err := err, maxErr := maxErr, pwarn := pwarn, unrec := unrec, carry := carry, errAcc := errAcc }
  | validated (j : RegId) (v : Nat) (q : Phase) (hreg : HasReg (cfgR c) j) (hval : v < cfgMod c)
      (hphase : q = .constructed → j ≠ 0 ∧ p = .constructed) :
      CommandWrites c p s { s with
        regs := s.regs.set j (some v)
        imageLog := ⟨c, j == regM, sampleWords (cfgL c) (imgWord s (cfgL c) j), v⟩ :: s.imageLog
        engine := .configured c q }
  | readout (k : Canon) (one : Bool) (fp : DWord) (hlen : k.digits.length = nLen (cfgL c)) :
      CommandWrites c p s { putDigits k s with one := one, fp := fp }

/-- A register and its image, with the metric as it was. -/
theorem CommandWrites.imageOnly {c : ActiveCfg} {p : Phase} {s : State} (j : RegId) (v : Nat)
    (f : Nat → DWord) (q : Phase) (herr : s.err.toNat < errPatterns) (hreg : HasReg (cfgR c) j)
    (hval : v < cfgMod c) (hphase : q = .constructed → j ≠ 0 ∧ p = .constructed) :
    CommandWrites c p s (setPhase (putImage s c j v f) c q) :=
  .image j v f q s.err s.maxErr s.pwarn s.unrec s.carry s.errAcc hreg hval hphase herr

/-- How a decoded command ends (60_exceptions.md R206): with a code and nothing else, as CONFIGURE, or
with what a residue command writes. -/
inductive Ending (s : State) : State → Prop
  | code (e : ErrCode) : Ending s (complete e s)
  | configured (h : configAccepted Config.sizes (latchedCfg s) = true) :
      Ending s (complete .ok (applyConfig (latchedCfg s) s))
  | finished (d : Draws) {c : ActiveCfg} {p : Phase} {u : State} (he : s.engine = .configured c p)
      (hu : CommandWrites c p s u) : Ending s (finish d c u)

/-- The phase after a write of r_j is CONSTRUCTED only when r_0 was not written. -/
theorem constructed_of_writePhase {j : RegId} {p : Phase}
    (h : (if j = 0 then Phase.spectral else p) = .constructed) : j ≠ 0 ∧ p = .constructed := by
  split at h
  · cases h
  · next hj => exact ⟨hj, h⟩

theorem Ending.withEngine {s : State} {k : ActiveCfg → Phase → State}
    (h : ∀ c p, s.engine = .configured c p → Ending s (k c p)) : Ending s (withEngine s k) := by
  obtain ⟨-, hk⟩ | ⟨c, p, he, hk⟩ := withEngine_cases s k <;> rw [hk]
  · exact .code _
  · exact h c p he

theorem Ending.withField {s : State} {r : Option RegId} {k : RegId → State}
    (h : ∀ j, r = some j → Ending s (k j)) : Ending s (withField s r k) := by
  obtain ⟨-, hk⟩ | ⟨j, hr, hk⟩ := withField_cases s r k <;> rw [hk]
  · exact .code _
  · exact h j hr

theorem Ending.withValue {s : State} {j : RegId} {k : Nat → State}
    (h : ∀ v, s.regs[j] = some v → Ending s (k v)) : Ending s (withValue s j k) := by
  obtain ⟨-, hk⟩ | ⟨v, hv, hk⟩ := withValue_cases s j k <;> rw [hk]
  · exact .code _
  · exact h v hv

theorem configure_ending (s : State) : Ending s (configureWith Config.sizes s) := by
  unfold configureWith
  split
  · next h => exact .configured h
  · exact .code _

section
variable {s : State} (d : Draws)

theorem set_ending (herr : s.err.toNat < errPatterns) : Ending s (setWith d s) :=
  .withEngine fun c _ he => .finished d he <|
    .imageOnly _ _ _ _ herr (hasReg_zero _) (residueOf_lt _ _ (cfgMod_pos c)) (nomatch ·)

theorem squareDup_ending (dup : Bool) : Ending s (squareDupWith d dup s) :=
  .withEngine fun c _ he => .withValue fun v _ => .finished d he <|
    .image _ _ _ _ _ _ _ _ _ _ (hasReg_zero _) (squareValue_lt d c dup v) (nomatch ·)
      (squareOut_err_inRange _ _ _ _ _)

theorem mul_ending : Ending s (mulWith d s) :=
  .withEngine fun c _ he => .withValue fun v _ => .withValue fun u _ => .finished d he <|
    .image _ _ _ _ _ _ _ _ _ _ (hasReg_zero _) (mulValue_lt d c v u) (nomatch ·)
      (squareOut_err_inRange _ _ _ _ _)

theorem copy_ending (hregs : RegsOk s) (herr : s.err.toNat < errPatterns) (dst src : Nat) :
    Ending s (copyWith d dst src s) :=
  .withEngine fun _ _ he => .withField fun _ hj => .withField fun _ _ => .withValue fun _ hv =>
    .finished d he <| .imageOnly _ _ _ _ herr (hasReg_of_regOperand hj) (hregs.value_lt he hv)
      constructed_of_writePhase

theorem initMult_ending (hregs : RegsOk s) (herr : s.err.toNat < errPatterns) (src : Nat) :
    Ending s (initMultWith d src s) :=
  .withEngine fun c p he => .withField fun _ _ => .withValue fun v hv => .finished d he <| by
    rw [← setPhase_self (s := putImage s c regM v _) he]
    exact .imageOnly _ _ _ _ herr (hasReg_regM _) (hregs.value_lt he hv) fun hp => ⟨by decide, hp⟩

theorem getInt_ending : Ending s (getIntWith d s) :=
  .withEngine fun c _ he => .withValue fun v _ => .finished d he <|
    .readout (readoutCanon d c v) s.one s.fp (readoutCanon_length d c v)

theorem isOne_ending : Ending s (isOneWith d s) :=
  .withEngine fun c _ he => .withValue fun v _ => .finished d he <|
    .readout _ _ _ (readoutCanon_length d c v)

theorem validate_ending (dst : Nat) : Ending s (validateWith d dst s) :=
  .withEngine fun c _ he => .withField fun j hj => .finished d he <|
    .validated j _ _ (validateOperand_some hj) (validateValue_lt d c j s) constructed_of_writePhase

end

/-- Every decoded command ends in one of these ways. -/
theorem exec_ending {i : Instr} {s t : State} (hregs : RegsOk s) (herr : s.err.toNat < errPatterns)
    (h : exec i s = .next t) : Ending s t := by
  cases i with
  | nop => cases h; exact .code _
  | configure => cases h; exact configure_ending s
  | set => cases h; exact set_ending _ herr
  | squareDup dup => cases h; exact squareDup_ending _ dup
  | copy dst src => cases h; exact copy_ending _ hregs herr dst src
  | initMult src => cases h; exact initMult_ending _ hregs herr src
  | mul => cases h; exact mul_ending _
  | getInt => cases h; exact getInt_ending _
  | isOne => cases h; exact isOne_ending _
  | validate dst => cases h; exact validate_ending _ dst

theorem runCommand_ending {s t : State} (hregs : RegsOk s) (herr : s.err.toNat < errPatterns)
    (h : runCommand s = .next t) : Ending s t := by
  obtain ⟨i, -, hi⟩ | ⟨e, -, hill⟩ := runCommand_cases s
  · exact exec_ending hregs herr (hi ▸ h)
  · rw [hill] at h
    cases h
    exact .code _

end Sys2Proof.Machine

/-!
PROOF. Every step keeps the invariant of the machine.
-/

namespace Sys2Proof.Machine

/-! ### The invariant where its subject is kept -/

theorem MemoryOk.of_coreKept {s t : State} (h : MemoryOk s) (k : CoreKept s t) : MemoryOk t where
  canonical := k.arena ▸ h.canonical
  inside := by rw [k.arena, k.engine]; exact h.inside

theorem EngineOk.of_coreKept {s t : State} (h : EngineOk s) (k : CoreKept s t) : EngineOk t where
  accepted := by rw [k.engine]; exact h.accepted
  baseParams := by rw [k.engine, k.sbHi, k.sbLo]; exact h.baseParams
  constructed := by rw [k.engine, k.regs]; exact h.constructed
  decoded := by rw [k.engine, k.dvalid, k.digits]; exact h.decoded

theorem RegsOk.of_coreKept {s t : State} (h : RegsOk s) (k : CoreKept s t) : RegsOk t := by
  intro j v hv
  rw [k.regs] at hv
  rw [k.engine]
  exact h j v hv

theorem Inv.of_coreKept {s t : State} (h : Inv s) (k : CoreKept s t) (hst : StatusOk t) : Inv t :=
  ⟨h.memory.of_coreKept k, h.engine.of_coreKept k, h.regs.of_coreKept k, hst⟩

/-! ### The status part -/

theorem StatusOk.complete {s : State} (h : StatusOk s) (e : ErrCode) : StatusOk (complete e s) :=
  ⟨h.cfgSize, h.cfgLatSize, (nomatch ·), h.errRange, fun _ => rfl⟩

theorem StatusOk.finish {s : State} (h : StatusOk s) (d : Draws) (c : ActiveCfg) :
    StatusOk (finish d c s) :=
  ⟨h.cfgSize, h.cfgLatSize, (nomatch ·), h.errRange, fun _ => rfl⟩

theorem StatusOk.applyConfig {s : State} (h : StatusOk s) (c : ActiveCfg) : StatusOk (applyConfig c s) :=
  ⟨h.cfgSize, h.cfgLatSize, h.busyDone, zero_inRange, h.heldIdle⟩

theorem resetState_statusOk (s : State) : StatusOk (resetState s) where
  cfgSize := BitVec.zero_and
  cfgLatSize := BitVec.zero_and
  busyDone := (nomatch ·)
  errRange := zero_inRange
  heldIdle := (nomatch ·)

theorem StatusOk.commandWrites {c : ActiveCfg} {p : Phase} {s u : State} (h : StatusOk s)
    (hu : CommandWrites c p s u) : StatusOk u := by
  cases hu with
  | image j v f q err _ _ _ _ _ _ _ _ herr =>
    exact ⟨h.cfgSize, h.cfgLatSize, h.busyDone, herr, h.heldIdle⟩
  | validated => exact ⟨h.cfgSize, h.cfgLatSize, h.busyDone, h.errRange, h.heldIdle⟩
  | readout => exact ⟨h.cfgSize, h.cfgLatSize, h.busyDone, h.errRange, h.heldIdle⟩

theorem StatusOk.readReg {s : State} (h : StatusOk s) (r : WinReg) : StatusOk (readReg r s).2 := by
  obtain hr | hr | ⟨x, hr⟩ | hr := readReg_state r s <;> rw [hr]
  · exact h
  all_goals exact ⟨h.cfgSize, h.cfgLatSize, h.busyDone, h.errRange, h.heldIdle⟩

theorem StatusOk.acceptCommand {s : State} (h : StatusOk s) (hr : s.resetIn = false) (w : Word) :
    StatusOk (acceptCommand w s) where
  cfgSize := h.cfgSize
  cfgLatSize := by
    rw [acceptCommand_cfgLatSize]
    split
    · exact h.cfgSize
    · exact h.cfgLatSize
  busyDone := fun _ => rfl
  errRange := h.errRange
  heldIdle := fun hin => absurd hin (by simp [hr])

/-- The block performs a write only while the reset input is released (70_reset_and_hazards.md R219). -/
theorem StatusOk.writeReg {s : State} (h : StatusOk s) (hr : s.resetIn = false) (r : WinReg) (v : Word) :
    StatusOk (writeReg r v s) := by
  cases r with
  | ctrl =>
    simp only [Machine.writeReg, writeCtrl]
    split
    · exact resetState_statusOk s
    · exact ⟨h.cfgSize, h.cfgLatSize, h.busyDone, h.errRange, h.heldIdle⟩
  | status =>
    exact ⟨h.cfgSize, h.cfgLatSize, fun hb => by simp [Machine.writeReg, writeStatus, h.busyDone hb],
      h.errRange, h.heldIdle⟩
  | cmd =>
    simp only [Machine.writeReg, writeCmd]
    split
    · exact ⟨h.cfgSize, h.cfgLatSize, h.busyDone, h.errRange, h.heldIdle⟩
    · exact h.acceptCommand hr v
  | cfgSize =>
    exact ⟨by simp [Machine.writeReg, BitVec.and_assoc], h.cfgLatSize, h.busyDone, h.errRange, h.heldIdle⟩
  | maxErrLo | maxErrHi =>
    simp only [Machine.writeReg]
    split
    · exact h
    · exact ⟨h.cfgSize, h.cfgLatSize, h.busyDone, h.errRange, h.heldIdle⟩
  | rawHi =>
    simp only [Machine.writeReg, writeRawHi]
    split
    · exact h
    · exact ⟨h.cfgSize, h.cfgLatSize, h.busyDone, h.errRange, h.heldIdle⟩
  | _ => exact ⟨h.cfgSize, h.cfgLatSize, h.busyDone, h.errRange, h.heldIdle⟩

/-! ### The invariant after the writes of a command -/

/-- A write below the end of the configuration's images keeps the arena in its canonical form. -/
theorem MemoryOk.write {s t : State} {c : ActiveCfg} {q : Phase} {a : Nat} {bs : List Byte}
    (h : MemoryOk s) {p : Phase} (he : s.engine = .configured c p) (ht : t.engine = .configured c q)
    (ha : t.arena = memWriteBytes s.arena a bs) (hle : a + bs.length ≤ arenaUsed c) : MemoryOk t where
  canonical := ha ▸ memWriteBytes_wf h.canonical a bs
  inside := by
    intro x hx
    refine ⟨c, q, ht, ?_⟩
    rw [ha] at hx
    obtain hx | hx := mem_memWriteBytes hx
    · obtain ⟨c', p', he', hlt⟩ := h.inside x hx
      cases he.symm.trans he'
      exact hlt
    · omega

/-- The engine's part, when the configuration stays and the phase may move. -/
theorem EngineOk.of_configured {s t : State} {c : ActiveCfg} {p q : Phase} (h : EngineOk s)
    (he : s.engine = .configured c p) (ht : t.engine = .configured c q) (hhi : t.sbHi = s.sbHi)
    (hlo : t.sbLo = s.sbLo) (hq : q = .constructed → t.regs[(0 : RegId)] = none)
    (hd : t.dvalid = true → t.digits.length = nLen (cfgL c)) : EngineOk t where
  accepted := by rintro _ _ ht'; cases ht.symm.trans ht'; exact h.accepted c p he
  baseParams := by rintro _ _ ht'; cases ht.symm.trans ht'; rw [hhi, hlo]; exact h.baseParams c p he
  constructed := by rintro _ ht'; cases ht.symm.trans ht'; exact hq rfl
  decoded := fun hdv => ⟨c, q, ht, hd hdv⟩

theorem EngineOk.digits_length {s : State} {c : ActiveCfg} {p : Phase} (h : EngineOk s)
    (he : s.engine = .configured c p) (hd : s.dvalid = true) : s.digits.length = nLen (cfgL c) := by
  obtain ⟨c', p', he', hlen⟩ := h.decoded hd
  cases he.symm.trans he'
  exact hlen

/-- r_0 still holds nothing when another register of a CONSTRUCTED engine is written. -/
theorem EngineOk.regs_zero_set {s : State} {c : ActiveCfg} {p q : Phase} (h : EngineOk s)
    (he : s.engine = .configured c p) {j : RegId} (hq : q = .constructed → j ≠ 0 ∧ p = .constructed)
    (v : Option Nat) : q = .constructed → (s.regs.set j v)[(0 : RegId)] = none := by
  intro hc
  obtain ⟨hj, rfl⟩ := hq hc
  rw [getElem_set_reg, if_neg (Ne.symm hj)]
  exact h.constructed c he

theorem RegsOk.set {s t : State} {c : ActiveCfg} {p q : Phase} (h : RegsOk s)
    (he : s.engine = .configured c p) (ht : t.engine = .configured c q) {j : RegId} {v : Nat}
    (hregs : t.regs = s.regs.set j (some v)) (hj : HasReg (cfgR c) j) (hv : v < cfgMod c) : RegsOk t := by
  intro k u hu
  refine ⟨c, q, ht, ?_⟩
  rw [hregs, getElem_set_reg] at hu
  split at hu
  · next hk => cases hu; subst hk; exact ⟨hv, hj⟩
  · exact ⟨h.value_lt he hu, h.hasReg he hu⟩

theorem Inv.commandWrites {c : ActiveCfg} {p : Phase} {s u : State} (h : Inv s)
    (he : s.engine = .configured c p) (hu : CommandWrites c p s u) : Inv u := by
  have hst := h.status.commandWrites hu
  cases hu with
  | image j v f q _ _ _ _ _ _ hreg hval hphase _ =>
    have hle : imageBase (cfgL c) j + (imageBytes (cfgL c) f).length ≤ arenaUsed c :=
      (imageBytes_length _ f).symm ▸ imageBase_le_arenaUsed hreg
    exact ⟨h.memory.write he rfl rfl hle,
      h.engine.of_configured he rfl rfl rfl (h.engine.regs_zero_set he hphase _) (h.engine.digits_length he),
      h.regs.set he rfl rfl hreg hval, hst⟩
  | validated j v q hreg hval hphase =>
    exact ⟨⟨h.memory.canonical, fun x hx => by
        obtain ⟨c', p', he', hlt⟩ := h.memory.inside x hx
        cases he.symm.trans he'
        exact ⟨c, q, rfl, hlt⟩⟩,
      h.engine.of_configured he rfl rfl rfl (h.engine.regs_zero_set he hphase _) (h.engine.digits_length he),
      h.regs.set he rfl rfl hreg hval, hst⟩
  | readout k one fp hlen =>
    exact ⟨⟨h.memory.canonical, h.memory.inside⟩,
      h.engine.of_configured he he rfl rfl (fun hp => h.engine.constructed c (hp ▸ he))
        (fun _ => (List.length_map _).trans hlen),
      h.regs, hst⟩

theorem CommandWrites.engine {c : ActiveCfg} {p : Phase} {s u : State} (he : s.engine = .configured c p)
    (hu : CommandWrites c p s u) : ∃ q, u.engine = .configured c q := by
  cases hu with
  | image _ _ _ q => exact ⟨q, rfl⟩
  | validated _ _ q => exact ⟨q, rfl⟩
  | readout => exact ⟨p, he⟩

theorem Inv.finish {c : ActiveCfg} {q : Phase} {u : State} (h : Inv u) (d : Draws)
    (he : u.engine = .configured c q) : Inv (finish d c u) where
  memory := h.memory.write he he rfl ((imageBytes_length _ d.scratch).symm ▸ scratchBase_le_arenaUsed c)
  engine := ⟨h.engine.accepted, h.engine.baseParams, h.engine.constructed, h.engine.decoded⟩
  regs := h.regs
  status := h.status.finish d c

theorem Inv.applyConfig {s : State} (h : Inv s) {c : ActiveCfg}
    (hc : configAccepted Config.sizes c = true) : Inv (applyConfig c s) where
  memory := ⟨List.Pairwise.nil, fun _ hx => absurd hx List.not_mem_nil⟩
  engine :=
    { accepted := by rintro _ _ he; cases he; exact hc
      baseParams := by rintro _ _ he; cases he; exact ⟨applyConfig_sbHi c s, applyConfig_sbLo c s⟩
      constructed := fun _ _ => getElem_replicate_reg 0
      decoded := (nomatch ·) }
  regs := fun j _ hv => absurd ((getElem_replicate_reg j).symm.trans hv) (nomatch ·)
  status := h.status.applyConfig c

theorem Inv.complete {s : State} (h : Inv s) (e : ErrCode) : Inv (complete e s) :=
  h.of_coreKept (complete_coreKept e s) (h.status.complete e)

theorem Inv.ending {s t : State} (h : Inv s) (ht : Ending s t) : Inv t := by
  cases ht with
  | code e => exact h.complete e
  | configured hc => exact (h.applyConfig hc).complete .ok
  | finished d he hu =>
    obtain ⟨q, hq⟩ := hu.engine he
    exact (h.commandWrites he hu).finish d hq

/-! ### The invariant after an action of the host -/

theorem resetState_inv (s : State) : Inv (resetState s) where
  memory := ⟨List.Pairwise.nil, fun _ hx => absurd hx List.not_mem_nil⟩
  engine :=
    { accepted := fun _ _ => (nomatch ·)
      baseParams := fun _ _ => (nomatch ·)
      constructed := fun _ => (nomatch ·)
      decoded := (nomatch ·) }
  regs := fun j _ hv => absurd ((regs_resetState s j).symm.trans hv) (nomatch ·)
  status := resetState_statusOk s

/-- A register that loses its value takes nothing from the others. -/
theorem RegsOk.set_none {s t : State} (h : RegsOk s) (he : t.engine = s.engine) {j : RegId}
    (hregs : t.regs = s.regs.set j none) : RegsOk t := by
  intro k u hu
  rw [hregs, getElem_set_reg] at hu
  split at hu
  · cases hu
  · exact he ▸ h k u hu

/-- Under the invariant a write of RAW_HI stays inside its image (10_state.md R49). -/
theorem Inv.writeRawHi {s : State} (h : Inv s) (v : Word) (hst : StatusOk (writeRawHi v s)) :
    Inv (writeRawHi v s) := by
  cases ht : rawTarget s with
  | none => rwa [writeRawHi_none ht]
  | some x =>
    obtain ⟨l, j, w⟩ := x
    obtain ⟨c, p, he, rfl, hreg, hw⟩ := rawTarget_hasReg ht
    rw [writeRawHi_some ht] at hst ⊢
    have hle : imageBase (cfgL c) j + 8 * w + (wordBytes (joinHalves v s.rawHold)).length ≤ arenaUsed c := by
      have := rawWord_inside hw
      have := imageBase_le_arenaUsed hreg
      rw [wordBytes_length]
      omega
    refine ⟨h.memory.write he he rfl hle, h.engine.of_configured he he rfl rfl (fun hp => ?_)
      (h.engine.digits_length he), h.regs.set_none rfl rfl, hst⟩
    rw [getElem_set_reg]
    split
    · rfl
    · exact h.engine.constructed c (hp ▸ he)

theorem Inv.writeReg {s : State} (h : Inv s) (hr : s.resetIn = false) (r : WinReg) (v : Word) :
    Inv (writeReg r v s) := by
  have hst := h.status.writeReg hr r v
  obtain hk | hreset | hraw := writeReg_cases r v s
  · exact h.of_coreKept hk hst
  · exact hreset ▸ resetState_inv s
  · rw [hraw] at hst ⊢
    exact h.writeRawHi v hst

theorem StatusOk.giveAnswer {r : BusAnswer × State} (h : StatusOk r.2) : StatusOk (giveAnswer r) :=
  ⟨h.cfgSize, h.cfgLatSize, h.busyDone, h.errRange, h.heldIdle⟩

theorem Inv.giveAnswer {r : BusAnswer × State} (h : Inv r.2) : Inv (giveAnswer r) :=
  h.of_coreKept (giveAnswer_coreKept r) h.status.giveAnswer

theorem assertReset_inv (s : State) : Inv { resetState s with resetIn := true } :=
  have h := resetState_inv s
  have st := h.status
  h.of_coreKept ⟨rfl, rfl, rfl, rfl, rfl, rfl, rfl, rfl, rfl⟩
    ⟨st.cfgSize, st.cfgLatSize, st.busyDone, st.errRange, fun _ => rfl⟩

theorem Inv.setResetInput {s : State} (h : Inv s) (b : Bool) : Inv (setResetInput b s) := by
  unfold Machine.setResetInput
  split
  · exact assertReset_inv s
  · split
    · exact resetState_inv s
    · exact h

theorem Inv.runEvent {s : State} (h : Inv s) (e : HostEvent) : Inv (runEvent e s) := by
  cases e with
  | read addr width =>
    refine Inv.giveAnswer ?_
    obtain hs | ⟨r, hr⟩ := busRead_state addr width s
    · exact hs.symm ▸ h
    · exact hr.symm ▸ h.of_coreKept (readReg_coreKept r s) (h.status.readReg r)
  | write addr width x =>
    refine Inv.giveAnswer ?_
    obtain hs | ⟨hr, r, v, hw⟩ := busWrite_state addr width x s
    · exact hs.symm ▸ h
    · exact hw.symm ▸ h.writeReg hr r v
  | resetInput b => exact h.setResetInput b
  | quiet => exact h

/-- What the block's invariants are about does not mention the world's list or the steps left. -/
theorem world_coreKept (s : State) (n : Nat) (es : List HostEvent) :
    CoreKept s { s with remaining := n, inputs := es } :=
  ⟨rfl, rfl, rfl, rfl, rfl, rfl, rfl, rfl, rfl⟩

theorem runInput_cases (s : State) :
    runInput s = s ∨ ∃ e es, runInput s = runEvent e { s with inputs := es } := by
  cases h : s.inputs with
  | nil => exact .inl (by simp only [runInput, h])
  | cons e es => exact .inr ⟨e, es, by simp only [runInput, h]⟩

theorem Inv.world {s : State} (h : Inv s) (n : Nat) (es : List HostEvent) :
    Inv { s with remaining := n, inputs := es } :=
  have st := h.status
  h.of_coreKept (world_coreKept s n es)
    ⟨st.cfgSize, st.cfgLatSize, st.busyDone, st.errRange, st.heldIdle⟩

/-- What a step can be: an ending of the running command, or at most one action of the world. -/
theorem step_next_cases {s t : State} (hregs : RegsOk s) (herr : s.err.toNat < errPatterns)
    (h : step s = .next t) :
    Ending s t ∨ ∃ n, t = { s with remaining := n } ∨
      ∃ e es, t = runEvent e { s with remaining := n, inputs := es } := by
  obtain ⟨-, -, hrun⟩ | ⟨-, hin⟩ := step_cases s
  · exact .inl (runCommand_ending hregs herr (hrun ▸ h))
  · rw [hin] at h
    cases h
    exact .inr ⟨_, runInput_cases _⟩

theorem Inv.step {s t : State} (h : Inv s) (hs : step s = .next t) : Inv t := by
  obtain hend | ⟨n, rfl | ⟨e, es, rfl⟩⟩ := step_next_cases h.regs h.status.errRange hs
  · exact h.ending hend
  · exact h.world n s.inputs
  · exact (h.world n es).runEvent e

/-- Settles O43: every step is an ending of a command or an action of the world, and each keeps the
invariant. -/
theorem stepKeepsInvariant : Obligations.StepKeepsInvariant := fun _ _ => Inv.step

end Sys2Proof.Machine

/-!
PROOF. Every step keeps the record of images true (10_state.md R54).
-/

namespace Sys2Proof.Machine

/-- The image of register j stands on record for v: what `Recorded` says of a register that holds v. -/
def OnRecord (s : State) (c : ActiveCfg) (j : RegId) (v : Nat) : Prop :=
  ∃ r ∈ s.imageLog, r.cfg = c ∧ r.full = (j == regM) ∧
    r.samples = sampleWords (cfgL c) (imgWord s (cfgL c) j) ∧ r.value = v

/-- A record stays true while the log keeps it and the words of the image stay. -/
theorem OnRecord.mono {s t : State} {c : ActiveCfg} {j : RegId} {v : Nat} (h : OnRecord s c j v)
    (hlog : s.imageLog ⊆ t.imageLog)
    (hw : ∀ w, w < rawWordsOf (cfgL c) → imgWord t (cfgL c) j w = imgWord s (cfgL c) j w) :
    OnRecord t c j v := by
  obtain ⟨r, hr, hcfg, hfull, hsamples, hval⟩ := h
  exact ⟨r, hlog hr, hcfg, hfull, hsamples.trans (sampleWords_congr hw).symm, hval⟩

/-- A register whose image was just put on record with these words. -/
theorem onRecord_head {t : State} {c : ActiveCfg} {j : RegId} {v : Nat} {f : Nat → DWord}
    {log : List ImageRecord} (hlog : t.imageLog = ⟨c, j == regM, sampleWords (cfgL c) f, v⟩ :: log)
    (hw : ∀ w, w < rawWordsOf (cfgL c) → imgWord t (cfgL c) j w = f w) : OnRecord t c j v :=
  ⟨_, hlog ▸ List.mem_cons_self, rfl, rfl, (sampleWords_congr hw).symm, rfl⟩

theorem Recorded.onRecord {s : State} (h : Recorded s) {c : ActiveCfg} {p : Phase}
    (he : s.engine = .configured c p) {j : RegId} {v : Nat} (hv : s.regs[j] = some v) : OnRecord s c j v :=
  h j v hv c p he

theorem recorded_of_no_values {t : State} (h : ∀ j : RegId, t.regs[j] = none) : Recorded t :=
  fun j _ hv => absurd ((h j).symm.trans hv) (nomatch ·)

/-- The record of every other register stays true when only bytes of register j's image are written. -/
theorem Recorded.set {s t : State} {c : ActiveCfg} {p q : Phase} (h : Recorded s)
    (he : s.engine = .configured c p) (ht : t.engine = .configured c q) {j : RegId} {x : Option Nat}
    (hregs : t.regs = s.regs.set j x) (hlog : s.imageLog ⊆ t.imageLog)
    (hnew : ∀ v, x = some v → OnRecord t c j v) {lo len : Nat} (hk : BytesKeptOutside lo len s t)
    (hlo : imageBase (cfgL c) j ≤ lo)
    (hhi : lo + len ≤ imageBase (cfgL c) j + imageBytesOf (cfgL c)) : Recorded t := by
  intro k v hv c' p' he'
  cases ht.symm.trans he'
  rw [hregs, getElem_set_reg] at hv
  split at hv
  · next hkj => exact hkj ▸ hnew v hv
  · next hkj =>
    have hd := imageBase_disjoint (cfgL c) hkj
    exact (h.onRecord he hv).mono hlog fun w hw => imgWord_of_bytesKeptOutside hk (by omega) hw

/-- A write that reaches no image of a register with a value leaves the record true. -/
theorem Recorded.of_write {s t : State} (h : Recorded s) {lo len : Nat} (he : t.engine = s.engine)
    (hregs : t.regs = s.regs) (hlog : t.imageLog = s.imageLog) (hk : BytesKeptOutside lo len s t)
    (hd : ∀ c p (j : RegId) (v : Nat), s.engine = .configured c p → s.regs[j] = some v →
      imageBase (cfgL c) j + imageBytesOf (cfgL c) ≤ lo ∨ lo + len ≤ imageBase (cfgL c) j) :
    Recorded t := by
  intro j v hv c p hc
  rw [hregs] at hv
  rw [he] at hc
  exact (h.onRecord hc hv).mono (hlog ▸ List.Subset.refl _)
    fun w hw => imgWord_of_bytesKeptOutside hk (hd c p j v hc hv) hw

theorem bytesKept_of_same {s t : State} (he : t.epoch = s.epoch) (ha : t.arena = s.arena) (lo len : Nat) :
    BytesKeptOutside lo len s t := fun a _ => by rw [arenaByte, arenaByte, he, ha]

theorem Recorded.of_coreKept {s t : State} (h : Recorded s) (k : CoreKept s t) : Recorded t :=
  h.of_write k.engine k.regs k.imageLog (bytesKept_of_same (lo := 0) (len := 0) k.epoch k.arena)
    fun _ _ _ _ _ _ => .inr (Nat.zero_le _)

theorem Recorded.commandWrites {c : ActiveCfg} {p : Phase} {s u : State} (h : Recorded s)
    (he : s.engine = .configured c p) (hu : CommandWrites c p s u) : Recorded u := by
  cases hu with
  | image j v f q =>
    refine h.set he rfl rfl (List.subset_cons_self _ _) ?_
      (bytesKeptOutside_of_imageWrite (f := f) rfl rfl) le_rfl le_rfl
    rintro _ ⟨⟩
    exact onRecord_head rfl fun w hw => imgWord_of_write (s := s) rfl hw
  | validated j v q =>
    refine h.set he rfl rfl (List.subset_cons_self _ _) ?_
      (bytesKept_of_same rfl rfl (imageBase (cfgL c) j) 0) le_rfl (Nat.le_add_right _ _)
    rintro _ ⟨⟩
    exact onRecord_head rfl fun _ _ => rfl
  | readout =>
    exact h.of_write rfl rfl rfl (bytesKept_of_same rfl rfl 0 0) fun _ _ _ _ _ _ => .inr (Nat.zero_le _)

/-- The scratch image lies above every image (20_memory.md R84). -/
theorem Recorded.finish {c : ActiveCfg} {q : Phase} {u : State} (h : Recorded u) (hregs : RegsOk u)
    (d : Draws) (he : u.engine = .configured c q) : Recorded (finish d c u) :=
  h.of_write rfl rfl rfl (bytesKeptOutside_of_imageWrite rfl (finish_arena d c u)) fun _ _ _ _ hc hv => by
    cases he.symm.trans hc
    exact .inl (imageBase_le_scratchBase _ (hregs.hasReg he hv))

theorem Recorded.ending {s t : State} (h : Recorded s) (hi : Inv s) (ht : Ending s t) : Recorded t := by
  cases ht with
  | code e => exact h.of_coreKept (complete_coreKept e s)
  | configured => exact recorded_of_no_values getElem_replicate_reg
  | finished d he hu =>
    obtain ⟨q, hq⟩ := hu.engine he
    exact (h.commandWrites he hu).finish (hi.commandWrites he hu).regs d hq

/-- The register of a raw word written has no value any more; the others keep their images. -/
theorem Recorded.writeRawHi {s : State} (h : Recorded s) (v : Word) : Recorded (writeRawHi v s) := by
  cases ht : rawTarget s with
  | none => rwa [writeRawHi_none ht]
  | some x =>
    obtain ⟨l, j, w⟩ := x
    obtain ⟨c, p, he, rfl, -, hw⟩ := rawTarget_hasReg ht
    rw [writeRawHi_some ht]
    refine h.set he he rfl (List.Subset.refl _) (fun _ => (nomatch ·))
      (bytesKeptOutside_of_write rfl rfl) (Nat.le_add_right _ _) ?_
    have := rawWord_inside hw
    rw [wordBytes_length]
    omega

theorem Recorded.writeReg {s : State} (h : Recorded s) (r : WinReg) (v : Word) :
    Recorded (writeReg r v s) := by
  obtain hk | hreset | hraw := writeReg_cases r v s
  · exact h.of_coreKept hk
  · exact hreset ▸ recorded_of_no_values (regs_resetState s)
  · exact hraw ▸ h.writeRawHi v

theorem Recorded.setResetInput {s : State} (h : Recorded s) (b : Bool) : Recorded (setResetInput b s) := by
  unfold Machine.setResetInput
  split
  · exact recorded_of_no_values (regs_resetState s)
  · split
    · exact recorded_of_no_values (regs_resetState s)
    · exact h

theorem Recorded.runEvent {s : State} (h : Recorded s) (e : HostEvent) : Recorded (runEvent e s) := by
  cases e with
  | read addr width =>
    refine Recorded.of_coreKept ?_ (giveAnswer_coreKept _)
    obtain hs | ⟨r, hr⟩ := busRead_state addr width s
    · exact hs.symm ▸ h
    · exact hr.symm ▸ h.of_coreKept (readReg_coreKept r s)
  | write addr width x =>
    refine Recorded.of_coreKept ?_ (giveAnswer_coreKept _)
    obtain hs | ⟨-, r, v, hw⟩ := busWrite_state addr width x s
    · exact hs.symm ▸ h
    · exact hw.symm ▸ h.writeReg r v
  | resetInput b => exact h.setResetInput b
  | quiet => exact h

theorem Recorded.step {s t : State} (h : Recorded s) (hi : Inv s) (hs : step s = .next t) : Recorded t := by
  have hw (n es) : Recorded { s with remaining := n, inputs := es } := h.of_coreKept (world_coreKept s n es)
  obtain hend | ⟨n, rfl | ⟨e, es, rfl⟩⟩ := step_next_cases hi.regs hi.status.errRange hs
  · exact h.ending hi hend
  · exact hw n s.inputs
  · exact (hw n es).runEvent e

/-- Settles O45: a register's record lasts while its image does, and a step that changes an image puts the
new one on record or takes the register's value. -/
theorem stepKeepsImagesRecorded : Obligations.StepKeepsImagesRecorded := fun _ _ hi h => h.step hi

end Sys2Proof.Machine

/-!
PROOF. What the host reads in the window, and what its accesses leave unchanged (10_state.md R28 to R51).
-/

namespace Sys2Proof.Machine

/-- Settles O30: a write of a reached word is one write of eight bytes into its image. -/
theorem rawHighHalf : Obligations.RawHighHalf := by
  intro s
  refine ⟨fun c p j he hsel hb hi => ?_, fun h => ?_⟩
  · have ht := rawTarget_eq_some he (rawSelected_eq_some hsel) hb hi
    refine ⟨by simp only [readReg, readRawHi, ht, hiHalf], fun v => ?_⟩
    have hregs := regs_writeRawHi ht v
    refine ⟨imgWord_writeRawHi ht v, bytesKept_writeRawHi ht v, ?_, fun k hk => ?_, ?_⟩ <;>
      rw [show writeReg .rawHi v s = writeRawHi v s from rfl]
    · rw [hregs, getElem_set_reg, if_pos rfl]
    · rw [hregs, getElem_set_reg, if_neg hk]
    · rw [writeRawHi_some ht]
  · have ht := rawTarget_eq_none h
    exact ⟨by simp only [readReg, readRawHi, ht], writeRawHi_none ht⟩

/-- Settles O28, by when the digit window reaches a digit. -/
theorem digitWindow : Obligations.DigitWindow := by
  intro s
  refine ⟨fun c p he hb hd hi => ?_, fun h => ?_, fun v => rfl⟩
  · simp only [readReg, readDigData, digitTarget_eq_some he hb hd hi]
  · simp only [readReg, readDigData, digitTarget_eq_none h]

/-- Settles O29, by when the raw window reaches a word. -/
theorem rawLowHalf : Obligations.RawLowHalf := by
  intro s
  refine ⟨fun c p j he hsel hb hi => ?_, fun h => ?_, fun v => rfl⟩
  · simp only [readReg, readRawLo, rawTarget_eq_some he (rawSelected_eq_some hsel) hb hi, loHalf]
  · simp only [readReg, readRawLo, rawTarget_eq_none h]

/-- Settles O24, by where an access lands: its offset in the window, its width and its alignment. -/
theorem busErrorChangesNothing : Obligations.BusErrorChangesNothing := by
  intro s
  refine ⟨fun off width v h => ?_, fun r v => ?_, rfl, fun off width v hoff hr => ?_,
    fun addr width v h => ?_, fun addr width v => ⟨rfl, rfl⟩⟩
  · simp only [readOffset, writeOffset, accessAligned_eq_false h, Bool.false_eq_true, if_false, and_self]
  · simp only [readOffset, writeOffset, accessAligned_offsetOf, regAtOffset_offsetOf, if_true, loHalf,
      and_self]
  · simp only [busRead, busWrite, windowOffset_inside hoff, hr, Bool.false_eq_true, if_false, and_self]
  · simp only [busRead, busWrite, windowOffset_outside h, and_self]

/-- Settles O27: each register is a field of its own, narrowed to its defined bits. -/
theorem writtenRegistersReadBack : Obligations.WrittenRegistersReadBack := by
  intro s v
  refine ⟨rfl, rfl, rfl, loHalf_joinHalves _ _, hiHalf_joinHalves _ _, hiHalf_joinHalves _ _,
    loHalf_joinHalves _ _, setWidth_setWidth_eq_and v (k := 23) (by decide),
    setWidth_setWidth_eq_and v (k := 8) (by decide), setWidth_setWidth_eq_and v (k := 25) (by decide),
    fun hv => ?_, fun hb => ?_, fun r hr => ?_, rfl, rfl, rfl, rfl, rfl, rfl, rfl, rfl,
    fun hb => ⟨writeReg_maxErrLo hb v, writeReg_maxErrHi hb v⟩, writeReg_ctrl⟩
  · rw [writeReg_ctrl hv]
    exact ofNat_getLsbD_zero v
  · rw [writeReg_maxErrLo hb, writeReg_maxErrHi hb]
    exact ⟨loHalf_joinHalves _ _, hiHalf_joinHalves _ _, hiHalf_joinHalves _ _, loHalf_joinHalves _ _⟩
  · fin_cases hr <;> rfl

/-! ### STATUS -/

theorem errCodeNumber_le (e : ErrCode) : errCodeNumber e ≤ 5 := by cases e <;> decide

theorem estateNumber_le (e : Engine) : estateNumber e ≤ 3 := by
  cases e with
  | unconfigured => exact Nat.zero_le _
  | configured c p => cases p <;> simp [estateNumber]

/-- Every field of STATUS fits its bits (10_state.md R32). -/
theorem statusField_bounds (s : State) : s.busy.toNat < 2 ∧ s.done.toNat < 2 ∧ s.cmdOvf.toNat < 2 ∧
    errCodeNumber s.errCode ≤ 5 ∧ estateNumber s.engine ≤ 3 ∧ s.pwarn.toNat < 2 ∧ s.unrec.toNat < 2 ∧
    s.one.toNat < 2 ∧ s.m1.toNat < 2 ∧ s.dvalid.toNat < 2 :=
  ⟨Bool.toNat_lt _, Bool.toNat_lt _, Bool.toNat_lt _, errCodeNumber_le _, estateNumber_le _,
    Bool.toNat_lt _, Bool.toNat_lt _, Bool.toNat_lt _, Bool.toNat_lt _, Bool.toNat_lt _⟩

/-- STATUS as a number. -/
theorem statusWord_toNat (s : State) : (statusWord s).toNat = s.busy.toNat + s.done.toNat * 2 +
    s.cmdOvf.toNat * 4 + errCodeNumber s.errCode * 2 ^ 4 + estateNumber s.engine * 2 ^ 8 +
    s.pwarn.toNat * 2 ^ 12 + s.unrec.toNat * 2 ^ 13 + s.one.toNat * 2 ^ 14 + s.m1.toNat * 2 ^ 15 +
    s.dvalid.toNat * 2 ^ 16 := by
  have hb := statusField_bounds s
  rw [statusWord, BitVec.toNat_ofNat]
  omega

/-- Settles O36: STATUS is a sum of fields that do not overlap. -/
theorem statusFields : Obligations.StatusFields := by
  intro s
  have hw := statusWord_toNat s
  have hb := statusField_bounds s
  have herr : ((statusWord s).extractLsb' 4 4).toNat = errCodeNumber s.errCode := by
    rw [extractLsb'_toNat_eq]; omega
  have hest : ((statusWord s).extractLsb' 8 3).toNat = estateNumber s.engine := by
    rw [extractLsb'_toNat_eq]; omega
  have hrsv : ((statusWord s).extractLsb' 17 15).toNat = (0 : BitVec 15).toNat := by
    rw [extractLsb'_toNat_eq, show (0 : BitVec 15).toNat = 0 from rfl]; omega
  have bit {i : Nat} {b : Bool} (h : (statusWord s).toNat / 2 ^ i % 2 = b.toNat) :
      (statusWord s).getLsbD i = b := getLsbD_eq_of_toNat h
  have zero : false.toNat = 0 := rfl
  refine ⟨rfl, bit ?_, bit ?_, bit ?_, bit ?_, herr.trans ?_, hest.trans ?_, bit ?_, bit ?_, bit ?_, bit ?_,
    bit ?_, bit ?_, BitVec.eq_of_toNat_eq hrsv⟩
  case refine_5 => cases s.errCode <;> rfl
  case refine_6 => rcases s.engine with _ | ⟨_, _ | _ | _⟩ <;> rfl
  all_goals omega

/-! ### VALID -/

/-- The number whose bits these are, lowest first. -/
theorem testBit_sum_finRange {n : Nat} (f : Fin n → Bool) (j : Fin n) :
    ((List.finRange n).map fun i => (f i).toNat * 2 ^ i.val).sum.testBit j.val = f j := by
  induction n with
  | zero => exact j.elim0
  | succ n ih =>
    have hsum : ((List.finRange (n + 1)).map fun i => (f i).toNat * 2 ^ i.val).sum =
        (f 0).toNat + 2 * ((List.finRange n).map fun i => (f i.succ).toNat * 2 ^ i.val).sum := by
      rw [List.finRange_succ, List.map_cons, List.sum_cons, List.map_map, ← List.sum_map_mul_left]
      simp only [Fin.val_zero, pow_zero, mul_one, Function.comp_def, Fin.val_succ, pow_succ]
      congr 2
      exact List.map_congr_left fun i _ => by ring
    rw [hsum]
    refine Fin.cases ?_ (fun i => ?_) j
    · cases f 0 <;> simp [Nat.testBit_zero, Nat.add_mod]
    · rw [Fin.val_succ, Nat.testBit_succ, ← ih fun i => f i.succ]
      congr 1
      have := (f 0).toNat_lt
      omega

/-- Bit j of VALID tells whether register j holds a value (10_state.md R43). -/
theorem getLsbD_validWord (s : State) (j : RegId) : (validWord s).getLsbD j.val = (s.regs[j]).isSome := by
  rw [validWord, BitVec.getLsbD_ofNat, testBit_sum_finRange fun j : RegId => (s.regs[j]).isSome]
  simp [j.isLt]

/-- A register the configuration does not have holds nothing (10_state.md R43). -/
theorem RegsOk.none_of_absent {s : State} (h : RegsOk s) {c : ActiveCfg} {p : Phase}
    (he : s.engine = .configured c p) {j : RegId} (hr : cfgR c < j.val) (h30 : j.val ≤ 30) :
    s.regs[j] = none := by
  by_contra hne
  obtain ⟨v, hv⟩ := Option.ne_none_iff_exists'.mp hne
  obtain rfl | hle := h.hasReg he hv
  · exact absurd h30 (by decide)
  · omega

/-- Settles O37: VALID is the sum of its bits' powers of two. -/
theorem validBits : Obligations.ValidBits := by
  intro s
  refine ⟨getLsbD_validWord s, fun h c p he j hr h30 => ?_, rfl, fun _ => rfl, ?_,
    Nat.le_of_lt_succ Config.nregsMax.isLt⟩
  · rw [getLsbD_validWord, h.none_of_absent he hr h30, Option.isSome_none]
  · refine BitVec.eq_of_getLsbD_eq fun i hi => (getLsbD_validWord State.reset ⟨i, hi⟩).trans ?_
    have hnone : State.reset.regs[(⟨i, hi⟩ : RegId)] = none := getElem_replicate_reg _
    rw [hnone, Option.isSome_none]
    exact BitVec.getLsbD_zero.symm

/-! ### ID, CAPS and the read-outs of the active configuration -/

theorem lanes_le (W : LaneWidth) : W.lanes ≤ 8 := by cases W <;> decide

/-- The fields of ID, for parameters that fit their bytes (10_state.md R29). -/
theorem idWordOf_fields {lanes tMax nregsMax : Nat} (hl : lanes < 256) (ht : tMax < 256)
    (hr : nregsMax < 256) :
    ((idWordOf lanes tMax nregsMax).extractLsb' 0 8).toNat = lanes ∧
      ((idWordOf lanes tMax nregsMax).extractLsb' 8 8).toNat = tMax ∧
      ((idWordOf lanes tMax nregsMax).extractLsb' 16 8).toNat = nregsMax ∧
      ((idWordOf lanes tMax nregsMax).extractLsb' 24 8).toNat = 0x47 := by
  have hw : (idWordOf lanes tMax nregsMax).toNat =
      lanes + tMax * 2 ^ 8 + nregsMax * 2 ^ 16 + 0x47 * 2 ^ 24 := by
    rw [idWordOf, BitVec.toNat_ofNat]
    omega
  refine ⟨?_, ?_, ?_, ?_⟩ <;> rw [extractLsb'_toNat_eq] <;> omega

theorem nio_eq (l : Nat) :
    nio l = if l ≤ 11 then 64 else if l ≤ 13 then 256 else if l ≤ 15 then 1024 else 4096 := by
  rw [nio, nioLog]
  split_ifs <;> rfl

theorem ofNat_nio_toNat (l : Nat) : (BitVec.ofNat 32 (nio l)).toNat = nio l := by
  have : nio l ≤ 4096 := by rw [nio_eq]; split_ifs <;> decide
  rw [BitVec.toNat_ofNat]
  omega

/-- RAW_WORDS fits its register in every supported size (10_state.md R50). -/
theorem ofNat_rawWordsOf_toNat {l : Nat} (hl : l ≤ 23) :
    (BitVec.ofNat 32 (rawWordsOf l)).toNat = 2 * (2 ^ l + 4 * (2 ^ l / nio l)) := by
  have hpow : 2 ^ l ≤ 2 ^ 23 := Nat.pow_le_pow_right (by decide) hl
  have hdiv : 2 ^ l / nio l ≤ 2 ^ l := Nat.div_le_self _ _
  rw [BitVec.toNat_ofNat, rawWordsOf, padIndex, nLen]
  omega

/-- CFG_SIZE's layout as a number (10_state.md R36). -/
theorem cfgSizeWord_toNat (c : ActiveCfg) : (cfgSizeWord c).toNat =
    c.log2n.toNat + c.t.toNat * 2 ^ 8 + c.numRegs.toNat * 2 ^ 16 + c.checkError.toNat * 2 ^ 24 := by
  have := c.log2n.isLt
  have := c.t.isLt
  have := c.numRegs.isLt
  have := c.checkError.toNat_lt
  rw [cfgSizeWord, BitVec.toNat_ofNat, cfgL, cfgT, cfgR]
  omega

/-- The fields of a configuration are read back from CFG_SIZE's layout (10_state.md R51). -/
theorem cfgSizeWord_fields (c : ActiveCfg) :
    (cfgSizeWord c).extractLsb' 0 5 = c.log2n ∧ (cfgSizeWord c).extractLsb' 8 8 = c.t ∧
      (cfgSizeWord c).extractLsb' 16 8 = c.numRegs ∧ (cfgSizeWord c).getLsbD 24 = c.checkError := by
  have hw := cfgSizeWord_toNat c
  have := c.log2n.isLt
  have := c.t.isLt
  have := c.numRegs.isLt
  have := c.checkError.toNat_lt
  refine ⟨BitVec.eq_of_toNat_eq ?_, BitVec.eq_of_toNat_eq ?_, BitVec.eq_of_toNat_eq ?_,
    getLsbD_eq_of_toNat (by omega)⟩ <;> rw [extractLsb'_toNat_eq] <;> omega

theorem engineRead_of {s : State} {c : ActiveCfg} {p : Phase} (he : s.engine = .configured c p)
    (f : ActiveCfg → Word) : engineRead s f = f c := by
  simp only [engineRead, he]

theorem engineRead_unconfigured {s : State} (he : s.engine = .unconfigured) (f : ActiveCfg → Word) :
    engineRead s f = 0 := by
  simp only [engineRead, he]

/-- Settles O40: each word is a sum of fields that do not overlap. -/
theorem identityAndReadOuts : Obligations.IdentityAndReadOuts := by
  intro s
  refine ⟨?_, rfl, ⟨rfl, rfl, rfl, rfl, rfl, rfl, rfl⟩, fun he => ?_, fun c p he => ?_⟩
  · have hl := lanes_le Config.laneWidth
    have ht : Config.tMax ≤ 64 := Config.tMaxPred.isLt
    have hr := Config.nregsMax.isLt
    exact idWordOf_fields (by omega) (by omega) (by omega)
  · simp only [readReg, engineRead_unconfigured he, and_self]
  · simp only [readReg, engineRead_of he, ofNat_nio_toNat]
    exact ⟨trivial, nio_eq _, fun _ h23 => ofNat_rawWordsOf_toNat h23, cfgSizeWord_fields c⟩

end Sys2Proof.Machine

/-!
SUPPORT. What the host's accesses leave alone: reads without effect, what a write through the bus writes,
offsets that name no register, and reserved bits (20_memory.md R70 to R72, R76; 10_state.md R28 to R51).
-/

namespace Sys2Proof.Machine

/-! ### Reads -/

/-- A register whose read has a side effect (20_memory.md R72). -/
def HasReadEffect (r : WinReg) : Prop := r = .digData ∨ r = .rawLo ∨ r = .rawHi

theorem readReg_state_of_noEffect {r : WinReg} (h : ¬ HasReadEffect r) (s : State) :
    (readReg r s).2 = s := by
  cases r with
  | digData | rawLo | rawHi => simp [HasReadEffect] at h
  | _ => rfl

/-- While a command runs the windows read 0 without effect (20_memory.md R76). -/
theorem readReg_busy_of_effect {r : WinReg} (h : HasReadEffect r) {s : State} (hb : s.busy = true) :
    readReg r s = (0, s) := by
  obtain rfl | rfl | rfl := h
  · simp only [readReg, readDigData, digitTarget_busy hb]
  · simp only [readReg, readRawLo, rawTarget_busy hb]
  · simp only [readReg, readRawHi, rawTarget_busy hb]

theorem readReg_state_busy (r : WinReg) {s : State} (hb : s.busy = true) : (readReg r s).2 = s := by
  by_cases h : HasReadEffect r
  · rw [readReg_busy_of_effect h hb]
  · exact readReg_state_of_noEffect h s

/-! ### The register at an offset -/

theorem regAtOffset_eq_some {off : Nat} {r : WinReg} (h : regAtOffset off = some r) : offsetOf r = off :=
  beq_iff_eq.mp (List.find?_some (p := fun r => offsetOf r == off) h)

theorem regAtOffset_eq_none {off : Nat} (h : ∀ r, offsetOf r ≠ off) : regAtOffset off = none :=
  List.find?_eq_none.mpr fun r _ => by simpa using h r

/-- A read at an offset changes nothing, or is the read of the register named there (20_memory.md R71). -/
theorem readOffset_state (off : Nat) (width : AccessWidth) (s : State) :
    (readOffset off width s).2 = s ∨
      ∃ r, offsetOf r = off ∧ (readOffset off width s).2 = (readReg r s).2 := by
  unfold readOffset
  split
  · split
    · exact .inl rfl
    · next r hr => exact .inr ⟨r, regAtOffset_eq_some hr, rfl⟩
  · exact .inl rfl

/-- A write at an offset changes nothing, or is the 32-bit write of the register named there
(20_memory.md R68, R71). -/
theorem writeOffset_state (off : Nat) (width : AccessWidth) (x : DWord) (s : State) :
    (writeOffset off width x s).2 = s ∨ ∃ r, offsetOf r = off ∧ width = .w32 ∧
      (writeOffset off width x s).2 = writeReg r (loHalf x) s := by
  unfold writeOffset
  split
  · next hal =>
    have hwidth : width = .w32 := beq_iff_eq.mp (Bool.and_eq_true_iff.mp hal).1
    split
    · exact .inl rfl
    · next r hr => exact .inr ⟨r, regAtOffset_eq_some hr, hwidth, rfl⟩
  · exact .inl rfl

theorem windowOffset_eq_some {addr off : Nat} (h : windowOffset addr = some off) :
    addr = Config.base + off := by
  simp only [windowOffset, Option.ite_none_right_eq_some, Option.some.injEq] at h
  omega

/-- A write through the bus changes nothing, or is the 32-bit write of the register at its address
(20_memory.md R67, R68). -/
theorem busWrite_target (addr : Nat) (width : AccessWidth) (x : DWord) (s : State) :
    (busWrite addr width x s).2 = s ∨ ∃ r, addr = Config.base + offsetOf r ∧ width = .w32 ∧
      (busWrite addr width x s).2 = writeReg r (loHalf x) s := by
  unfold busWrite
  split
  · exact .inl rfl
  · next off hoff =>
    split
    · exact .inl rfl
    · refine (writeOffset_state off width x s).imp_right fun ⟨r, hr, hwidth, hw⟩ => ⟨r, ?_, hwidth, hw⟩
      rw [hr, windowOffset_eq_some hoff]

/-! ### Reserved bits -/

theorem loHalf_getLsbD (x : DWord) {i : Nat} (hi : i < 32) : (loHalf x).getLsbD i = x.getLsbD i := by
  simp [loHalf, hi]

/-- A word is 0 under a mask when none of the mask's bits is set in it. -/
theorem and_eq_zero_of_bits {w m : Word} (h : ∀ i, i < 32 → m.getLsbD i = true → w.getLsbD i = false) :
    w &&& m = 0 := by
  refine BitVec.eq_of_getLsbD_eq fun i hi => ?_
  rw [BitVec.getLsbD_and, show (0 : Word).getLsbD i = false from BitVec.getLsbD_zero]
  cases hm : m.getLsbD i with
  | false => exact Bool.and_false _
  | true => rw [h i hi hm, Bool.false_and]

/-- The bits of a field that is 0. -/
theorem getLsbD_of_field_zero {w : Word} {lo len i : Nat} (h : w.toNat / 2 ^ lo % 2 ^ len = 0)
    (hlo : lo ≤ i) (hhi : i < lo + len) : w.getLsbD i = false := by
  have hf : w.extractLsb' lo len = 0 := BitVec.eq_of_toNat_eq (by rw [extractLsb'_toNat_eq, h]; rfl)
  have hbit := congrArg (·.getLsbD (i - lo)) hf
  simp only [BitVec.getLsbD_extractLsb', BitVec.ofNat_eq_ofNat, BitVec.getLsbD_zero] at hbit
  rw [Nat.add_sub_cancel' hlo, decide_eq_true (by omega : i - lo < len), Bool.true_and] at hbit
  exact hbit

/-- A register of k bits reads 0 in the bits above them. -/
theorem setWidth_and_eq_zero {k : Nat} (x : BitVec k) {m : Word}
    (h : ∀ i, i < 32 → m.getLsbD i = true → k ≤ i) : x.setWidth 32 &&& m = 0 :=
  and_eq_zero_of_bits fun i hi hm => by
    rw [BitVec.getLsbD_setWidth, BitVec.getLsbD_of_ge x i (h i hi hm), Bool.and_false]

/-- A register of k bits takes nothing from bits above them. -/
theorem setWidth_and_of_low {k : Nat} {m : Word} (h : ∀ i, i < k → m.getLsbD i = true) (v : Word) :
    (v &&& m).setWidth k = v.setWidth k := by
  refine BitVec.eq_of_getLsbD_eq fun i hi => ?_
  simp only [BitVec.getLsbD_setWidth, BitVec.getLsbD_and, h i hi, Bool.and_true]

/-- STATUS's reserved bits are 3, 11 and 31:17 (10_state.md R32). -/
theorem statusWord_reserved (s : State) : statusWord s &&& reservedMask .status = 0 := by
  have hw := statusWord_toNat s
  have hb := statusField_bounds s
  have hmask : ∀ i < 32, (reservedMask .status).getLsbD i = true → i = 3 ∨ i = 11 ∨ 17 ≤ i := by decide
  refine and_eq_zero_of_bits fun i hi hm => ?_
  obtain rfl | rfl | h17 := hmask i hi hm
  · exact getLsbD_eq_of_toNat (by rw [Bool.toNat_false]; omega)
  · exact getLsbD_eq_of_toNat (by rw [Bool.toNat_false]; omega)
  · exact getLsbD_of_field_zero (lo := 17) (len := 15) (by omega) h17 (by omega)

/-- The reserved bits of CFG_SIZE's layout are 7:5 and 31:25 (10_state.md R36, R51). -/
theorem cfgSizeWord_reserved (c : ActiveCfg) : cfgSizeWord c &&& ~~~cfgSizeMask = 0 := by
  have hw := cfgSizeWord_toNat c
  have := c.log2n.isLt
  have := c.t.isLt
  have := c.numRegs.isLt
  have := c.checkError.toNat_lt
  have hmask : ∀ i < 32, (~~~cfgSizeMask).getLsbD i = true → (5 ≤ i ∧ i < 8) ∨ 25 ≤ i := by decide
  refine and_eq_zero_of_bits fun i hi hm => ?_
  obtain ⟨h5, h8⟩ | h25 := hmask i hi hm
  · exact getLsbD_of_field_zero (lo := 5) (len := 3) (by omega) h5 h8
  · exact getLsbD_of_field_zero (lo := 25) (len := 7) (by omega) h25 (by omega)

theorem and_and_not_self (v m : Word) : v &&& m &&& ~~~m = 0 := by
  rw [BitVec.and_assoc, BitVec.and_not_self]
  exact BitVec.and_zero

/-- Reserved bits read 0, of CFG_SIZE where the state keeps them 0 (20_memory.md R71). -/
theorem readReg_reserved (r : WinReg) {s : State} (h : s.cfgSize &&& cfgSizeMask = s.cfgSize) :
    (readReg r s).1 &&& reservedMask r = 0 := by
  cases r with
  | caps => exact show capsWord &&& 0x00FFE0E0 = 0 by decide
  | ctrl => cases hie : s.ie <;> simp only [readReg, hie] <;> decide
  | status => exact statusWord_reserved s
  | cfgSize =>
    show s.cfgSize &&& ~~~cfgSizeMask = 0
    rw [← h, and_and_not_self]
  | actSize =>
    show engineRead s cfgSizeWord &&& ~~~cfgSizeMask = 0
    cases he : s.engine with
    | unconfigured => rw [engineRead_unconfigured he]; exact BitVec.zero_and
    | configured c p => rw [engineRead_of he, cfgSizeWord_reserved]
  | digIdx => exact setWidth_and_eq_zero s.digIdx (m := reservedMask .digIdx) (by decide)
  | rawSel => exact setWidth_and_eq_zero s.rawSel (m := reservedMask .rawSel) (by decide)
  | rawIdx => exact setWidth_and_eq_zero s.rawIdx (m := reservedMask .rawIdx) (by decide)
  | _ => exact BitVec.and_zero

theorem and_not_zero (v : Word) : v &&& ~~~0 = v := BitVec.and_allOnes

theorem getLsbD_and_of_set {m : Word} {i : Nat} (h : m.getLsbD i = true) (v : Word) :
    (v &&& m).getLsbD i = v.getLsbD i := by
  rw [BitVec.getLsbD_and, h, Bool.and_true]

/-- Writes to reserved bits are ignored (20_memory.md R71). -/
theorem writeReg_reserved (r : WinReg) (v : Word) (s : State) :
    writeReg r (v &&& ~~~reservedMask r) s = writeReg r v s := by
  cases r with
  | ctrl =>
    simp only [writeReg, writeCtrl,
      getLsbD_and_of_set (show (~~~reservedMask .ctrl).getLsbD 0 = true by decide),
      getLsbD_and_of_set (show (~~~reservedMask .ctrl).getLsbD 1 = true by decide)]
  | status =>
    simp only [writeReg, writeStatus,
      getLsbD_and_of_set (show (~~~reservedMask .status).getLsbD 1 = true by decide),
      getLsbD_and_of_set (show (~~~reservedMask .status).getLsbD 2 = true by decide)]
  | cfgSize => simp only [writeReg, reservedMask, BitVec.not_not, BitVec.and_assoc, BitVec.and_self]
  | digIdx => simp only [writeReg, setWidth_and_of_low (k := 23) (m := ~~~reservedMask .digIdx) (by decide)]
  | rawSel => simp only [writeReg, setWidth_and_of_low (k := 8) (m := ~~~reservedMask .rawSel) (by decide)]
  | rawIdx => simp only [writeReg, setWidth_and_of_low (k := 25) (m := ~~~reservedMask .rawIdx) (by decide)]
  | caps | actSize => rfl
  | _ => exact congrArg (writeReg _ · s) (and_not_zero v)

/-! ### What a running command keeps -/

/-- The state without what the host may change while a command runs: its operand registers, its flags and
its accesses to come and answered. The results and the command's latches are all in it (20_memory.md R75,
R76; 10_state.md R59). -/
def commandSide (s : State) : State :=
  { s with
    ie := false, done := false, cmdOvf := false, cfgB := 0, cfgSize := 0, arg := 0, thresh := 0,
    digIdx := 0, rawSel := 0, rawIdx := 0, rawHold := 0, remaining := 0, inputs := [], answers := [] }

/-- Every result is on the command's side of the state. -/
theorem resultsKept_of_commandSide {s t : State} (h : commandSide t = commandSide s) : ResultsKept s t :=
  have k {β : Type} (f : State → β) : f (commandSide t) = f (commandSide s) := congrArg f h
  { errCode := k State.errCode
    engine := k State.engine
    regs := k State.regs
    metric := ⟨k State.err, k State.maxErr, k State.pwarn, k State.unrec⟩
    digits := ⟨k State.digits, k State.dvalid, k State.m1⟩
    verdict := ⟨k State.one, k State.fp⟩
    datapath := ⟨k State.sbHi, k State.sbLo, k State.carry, k State.errAcc⟩
    bytes := fun a => k (arenaByte · a) }

theorem writeReg_cmd_busy {s : State} (hb : s.busy = true) (w : Word) :
    writeReg .cmd w s = { s with cmdOvf := true } := if_pos hb

theorem writeReg_maxErr_busy {s : State} (hb : s.busy = true) (v : Word) :
    writeReg .maxErrLo v s = s ∧ writeReg .maxErrHi v s = s := by
  simp only [writeReg, hb, if_true, and_self]

/-- While a command runs only a soft reset can change its side of the state (20_memory.md R76). -/
theorem commandSide_writeReg {s : State} (hb : s.busy = true) {r : WinReg} {v : Word}
    (hreset : r = .ctrl → v.getLsbD 1 = false) : commandSide (writeReg r v s) = commandSide s := by
  cases r with
  | ctrl => rw [writeReg_ctrl (hreset rfl)]; rfl
  | cmd => rw [writeReg_cmd_busy hb]; rfl
  | maxErrLo => rw [(writeReg_maxErr_busy hb v).1]
  | maxErrHi => rw [(writeReg_maxErr_busy hb v).2]
  | rawHi => exact congrArg commandSide (writeRawHi_none (rawTarget_busy hb) v)
  | _ => rfl

/-- A write that is no soft reset writes 0 to SRST when it reaches CTRL (70_reset_and_hazards.md R220). -/
theorem srst_of_not_softReset {x : DWord}
    (h : stopsCommand (.write (Config.base + offsetOf .ctrl) .w32 x) = false) :
    (loHalf x).getLsbD 1 = false := by
  rw [loHalf_getLsbD x (by decide)]
  simpa [stopsCommand, isSoftReset] using h

/-- An action of the world that does not stop the running command leaves its side of the state. -/
theorem commandSide_runEvent {s : State} (hb : s.busy = true) {e : HostEvent}
    (he : stopsCommand e = false) : commandSide (runEvent e s) = commandSide s := by
  cases e with
  | read addr width =>
    show commandSide (busRead addr width s).2 = commandSide s
    obtain hs | ⟨r, hr⟩ := busRead_state addr width s
    · rw [hs]
    · rw [hr, readReg_state_busy r hb]
  | write addr width x =>
    show commandSide (busWrite addr width x s).2 = commandSide s
    obtain hs | ⟨r, rfl, rfl, hw⟩ := busWrite_target addr width x s
    · rw [hs]
    · rw [hw]
      refine commandSide_writeReg hb ?_
      rintro rfl
      exact srst_of_not_softReset he
  | resetInput b => simp [stopsCommand] at he
  | quiet => rfl

end Sys2Proof.Machine

/-!
SUPPORT. Sizes of an image and places in it: rows of n_io samples with four gap positions each, and the
alignment of the views (20_memory.md R82 to R88).
-/

namespace Sys2Proof.Machine

/-! ### Sizes -/

theorem nio_pos (l : Nat) : 0 < nio l := Nat.two_pow_pos _

theorem dvd_nLen {l : Nat} (hl : 10 ≤ l) : 1024 ∣ nLen l := Nat.pow_dvd_pow 2 (m := 10) hl

theorem dvd_imageBytesOf {l : Nat} (hl : 10 ≤ l) : 64 ∣ imageBytesOf l := by
  have := dvd_nLen hl
  rw [imageBytesOf, padIndex]
  omega

/-! ### Alignment -/

theorem dvd_imageBase {l : Nat} (hl : 10 ≤ l) (j : RegId) : 64 ∣ imageBase l j :=
  (dvd_imageBytesOf hl).mul_left _

theorem dvd_scratchBase {l : Nat} (hl : 10 ≤ l) (r : Nat) : 64 ∣ scratchBase l r :=
  (dvd_imageBytesOf hl).mul_left _

theorem dvd_w122iBase {l : Nat} (hl : 10 ≤ l) (r : Nat) : 64 ∣ w122iBase l r :=
  (dvd_imageBytesOf hl).mul_left _

theorem dvd_tableBytes {l : Nat} (hl : 10 ≤ l) : 64 ∣ 16 * (nLen l / 8) := by
  have := dvd_nLen hl
  omega

theorem dvd_wsBase {l : Nat} (hl : 10 ≤ l) (r : Nat) : 64 ∣ wsBase l r :=
  (dvd_w122iBase hl r).add (dvd_tableBytes hl)

theorem dvd_slotsBase {l : Nat} (hl : 10 ≤ l) (r : Nat) : 64 ∣ slotsBase l r :=
  (dvd_wsBase hl r).add (dvd_tableBytes hl)

/-- The bytes of a vector divide the alignment of a view (20_memory.md R86). -/
theorem vectorBytes_dvd (W : LaneWidth) : 8 * W.lanes ∣ 64 := by cases W <;> decide

theorem dvd_arenaBase : 2 ^ 21 ∣ Config.arenaBase := Nat.dvd_mul_right _ _

/-- A vector access to an aligned view is aligned to its own size (20_memory.md R86). -/
theorem dvd_vectorAddress (W : LaneWidth) {base : Nat} (hbase : 64 ∣ base) (i : Nat) :
    8 * W.lanes ∣ arenaAddress (base + 8 * (W.lanes * i)) := by
  have harena : 8 * W.lanes ∣ Config.arenaBase :=
    (vectorBytes_dvd W).trans (Nat.dvd_trans (by decide) dvd_arenaBase)
  rw [arenaAddress, ← Nat.mul_assoc]
  exact harena.add (((vectorBytes_dvd W).trans hbase).add (Nat.dvd_mul_right _ _))

theorem imgVector_getElem (W : LaneWidth) (s : State) (l : Nat) (j : RegId) (i : Nat) (k : Fin W.lanes) :
    (imgVector W s l j i)[k] = arenaWord s (imageBase l j + 8 * (W.lanes * i + k.val)) := by
  simp only [imgVector, vdLoad, imgWord, Fin.getElem_fin, Vector.getElem_ofFn]

/-- ARENA_REQ is what the views take and 448 bytes more (20_memory.md R84, R85). -/
theorem arenaReq_eq {l : Nat} (hl : 10 ≤ l) (t r : Nat) :
    arenaReq l t r = slotsBase l r + 16 * (t * rowsOf l) + 448 := by
  have htable : 16 * (nLen l / 4) = 16 * (nLen l / 8) + 16 * (nLen l / 8) := by
    have := dvd_nLen hl
    omega
  have hbase : w122iBase l r = 16 * ((r + 3) * padIndex l (nLen l)) := by
    rw [w122iBase, imageBytesOf, Nat.mul_left_comm]
  rw [arenaReq, slotsBase, wsBase, hbase]
  omega

/-! ### Positions of samples -/

/-- A padded position is its row of n_io + 4 positions and its place in the row (20_memory.md R82). -/
theorem padIndex_eq_row (l k : Nat) : padIndex l k = k % nio l + (nio l + 4) * (k / nio l) := by
  have := Nat.mod_add_div k (nio l)
  rw [padIndex, Nat.add_mul]
  omega

theorem padIndex_mod (l k : Nat) : padIndex l k % (nio l + 4) = k % nio l := by
  have := Nat.mod_lt k (nio_pos l)
  rw [padIndex_eq_row, Nat.add_mul_mod_self_left, Nat.mod_eq_of_lt (by omega)]

theorem padIndex_div (l k : Nat) : padIndex l k / (nio l + 4) = k / nio l := by
  have := Nat.mod_lt k (nio_pos l)
  rw [padIndex_eq_row, Nat.add_mul_div_left _ _ (Nat.succ_pos _), Nat.div_eq_of_lt (by omega), Nat.zero_add]

theorem padIndex_strictMono (l : Nat) : StrictMono (padIndex l) := fun j k h => by
  have := Nat.div_le_div_right (c := nio l) h.le
  simp only [padIndex]
  omega

/-- A place in a row that is not a gap holds the sample of that row and place (20_memory.md R82). -/
theorem padIndex_of_place {l p : Nat} (h : p % (nio l + 4) < nio l) :
    padIndex l (p / (nio l + 4) * nio l + p % (nio l + 4)) = p := by
  have hrow : (p / (nio l + 4) * nio l + p % (nio l + 4)) / nio l = p / (nio l + 4) := by
    rw [Nat.mul_comm, Nat.mul_add_div (nio_pos l), Nat.div_eq_of_lt h, Nat.add_zero]
  have := Nat.div_add_mod' p (nio l + 4)
  rw [padIndex, hrow]
  linarith

/-- A place of an image that is not a gap holds one of the N samples. -/
theorem exists_padIndex_eq {l p : Nat} (hp : p < padIndex l (nLen l))
    (h : p % (nio l + 4) < nio l) : ∃ k, k < nLen l ∧ padIndex l k = p := by
  refine ⟨_, ?_, padIndex_of_place h⟩
  rwa [← (padIndex_strictMono l).lt_iff_lt, padIndex_of_place h]

/-! ### The words of an image -/

/-- A word of a sample's place holds a part of that sample (20_memory.md R88). -/
theorem sampleImageWord_of_place {l k w : Nat} (hw : w / 2 = padIndex l k) (z : Samples)
    (gap : Nat → DWord) : sampleImageWord l z gap w =
      if w % 2 = 0 then (sampleAt f64Arith z k).re else (sampleAt f64Arith z k).im := by
  have hsample : isSampleWord l w = true := by
    rw [isSampleWord, hw, padIndex_mod]
    exact decide_eq_true (Nat.mod_lt _ (nio_pos l))
  simp only [sampleImageWord, hsample, if_true, hw, padIndex_mod, padIndex_div, Nat.div_add_mod']

/-- A word that belongs to no sample is a gap word (20_memory.md R88). -/
theorem isSampleWord_eq_false {l w : Nat} (hw : w < rawWordsOf l)
    (h : ∀ k, k < nLen l → w / 2 ≠ padIndex l k) : isSampleWord l w = false := by
  refine decide_eq_false fun hlt => ?_
  have hp : w / 2 < padIndex l (nLen l) := by
    rw [rawWordsOf] at hw
    omega
  obtain ⟨k, hk, hkp⟩ := exists_padIndex_eq hp hlt
  exact h k hk hkp.symm

end Sys2Proof.Machine

/-!
PROOF. The memory rules: what a running command keeps, the views of the arena, the places of samples, and
accesses without effect (20_memory.md R71 to R88).
-/

namespace Sys2Proof.Machine

/-- Settles O8: before completion a step is at most one action of the world, and none that stops the
command; such an action leaves the command's side of the state. -/
theorem nothingSeenBeforeCompletion : Obligations.NothingSeenBeforeCompletion := by
  intro s hb hr hin
  obtain ⟨-, h0, -⟩ | ⟨-, hstep⟩ := step_cases s
  · exact absurd h0 hr
  have hside : commandSide (runInput { s with remaining := s.remaining - 1 }) = commandSide s := by
    cases hi : s.inputs with
    | nil => simp only [runInput]; rfl
    | cons e es =>
      simp only [runInput]
      rw [commandSide_runEvent (s := { s with remaining := s.remaining - 1, inputs := es }) hb
        (hin e (by rw [hi]; rfl))]
      rfl
  have k {β : Type} (f : State → β) := congrArg f hside
  exact ⟨_, hstep, resultsKept_of_commandSide hside, (k State.busy).trans hb, k State.cmdLat,
    k State.cfgLatB, k State.cfgLatSize, k State.argLat, k State.threshLat⟩

/-- Settles O41: every view is a whole number of 64-byte lines, and the arena's base is a multiple of
2 MiB. -/
theorem arenaViews : Obligations.ArenaViews := by
  intro l t r hl _ _
  have hmod {x : Nat} (h : 64 ∣ x) : x % 64 = 0 := Nat.mod_eq_zero_of_dvd h
  exact ⟨fun _ _ _ _ hne => imageBase_disjoint l hne,
    fun j hj => ⟨imageBase_le_scratchBase l hj, hmod (dvd_imageBase hl j)⟩,
    hmod (dvd_scratchBase hl r), (Nat.succ_mul _ _).symm, hmod (dvd_w122iBase hl r), rfl,
    hmod (dvd_wsBase hl r), rfl, hmod (dvd_slotsBase hl r), arenaReq_eq hl t r,
    Nat.mod_eq_zero_of_dvd dvd_arenaBase,
    fun W s j i _ => ⟨imgVector_getElem W s l j i,
      Nat.mod_eq_zero_of_dvd (dvd_vectorAddress W (dvd_imageBase hl j) i)⟩⟩

/-- Settles O42: index(k) is a bijection from the N samples to the places of an image that are not gaps. -/
theorem sampleWordPlaces : Obligations.SampleWordPlaces := by
  intro l z gap _ _
  refine ⟨fun k hk => ⟨?_, ?_, ?_⟩, fun w hw hgap => ?_⟩
  · have := padIndex_strictMono l hk
    rw [rawWordsOf]
    omega
  · rw [sampleImageWord_of_place (k := k) (by omega), if_pos (by omega)]
  · rw [sampleImageWord_of_place (k := k) (by omega), if_neg (by omega)]
  · rw [sampleImageWord, isSampleWord_eq_false hw fun k hk hp => ?_]
    · rfl
    · have := hgap k hk
      omega

/-- Settles O25, by the registers' masks. -/
theorem unnamedAndReserved : Obligations.UnnamedAndReserved := by
  refine ⟨fun s off v hal _ hnone => ?_, fun r s h => readReg_reserved r h,
    fun r s v => (writeReg_reserved r v s).symm⟩
  have haligned : accessAligned off .w32 = true := by simp [accessAligned, hal]
  simp only [readOffset, writeOffset, haligned, regAtOffset_eq_none hnone, if_true, and_self]

/-- Settles O26: the register at another offset than the three is one whose read has no side effect. -/
theorem readsWithoutEffect : Obligations.ReadsWithoutEffect := by
  intro s off width hdig hlo hhi
  obtain h | ⟨r, hoff, h⟩ := readOffset_state off width s
  · exact h
  · rw [h]
    refine readReg_state_of_noEffect ?_ s
    rintro (rfl | rfl | rfl)
    exacts [hdig hoff.symm, hlo hoff.symm, hhi hoff.symm]

/-- Settles O39: while a command runs the windows reach nothing, and a write of an operand register writes
its own field. -/
theorem windowsWhileBusy : Obligations.WindowsWhileBusy := by
  intro s v hb
  obtain ⟨hmaxLo, hmaxHi⟩ := writeReg_maxErr_busy hb v
  exact ⟨readReg_busy_of_effect (.inl rfl) hb, readReg_busy_of_effect (.inr (.inl rfl)) hb,
    readReg_busy_of_effect (.inr (.inr rfl)) hb, writeRawHi_none (rawTarget_busy hb) v, hmaxLo, hmaxHi,
    rfl, rfl, rfl, rfl, rfl, rfl, rfl, rfl, rfl⟩

end Sys2Proof.Machine

/-!
SUPPORT. A command's operands and the fields of a word that hold them: decoding and encoding are both said by
the fields (30_encoding.md R96, R99, R100).
-/

namespace Sys2Proof

/-! ### The fields of a command -/

/-- A command's OP (30_encoding.md R99). -/
def Instr.opcode : Instr → Nat
  | .nop => 0
  | .configure => 1
  | .set => 2
  | .squareDup _ => 3
  | .copy _ _ => 4
  | .initMult _ => 5
  | .mul => 6
  | .getInt => 7
  | .isOne => 8
  | .validate _ => 9

/-- A command's DST, 0 where its row marks the field "0". -/
def Instr.dstOperand : Instr → Nat
  | .copy dst _ | .validate dst => dst
  | _ => 0

/-- A command's SRC, 0 where its row marks the field "0". -/
def Instr.srcOperand : Instr → Nat
  | .copy _ src | .initMult src => src
  | _ => 0

/-- A command's DUP, 0 where its row marks the field "0". -/
def Instr.dupOperand : Instr → Bool
  | .squareDup dup => dup
  | _ => false

/-- The word's fields are the command's, and its reserved bits are 0. -/
structure HasFields (w : Word) (i : Instr) : Prop where
  op : opField w = i.opcode
  dst : dstField w = i.dstOperand
  src : srcField w = i.srcOperand
  dup : dupField w = i.dupOperand
  rsv : rsvField w = 0

theorem Instr.opcode_le (i : Instr) : i.opcode ≤ 9 := by cases i <;> simp [opcode]

theorem Instr.wellFormed_iff (i : Instr) :
    i.wellFormed = true ↔ i.dstOperand < 256 ∧ i.srcOperand < 256 := by
  cases i <;> simp [wellFormed, fitsField, dstOperand, srcOperand]

theorem encode_eq_commandWord (i : Instr) :
    encode i = commandWord i.opcode i.dstOperand i.srcOperand i.dupOperand := by
  cases i <;> rfl

/-! ### Encoding -/

/-- A word is its fields, when its reserved bits are 0. -/
theorem commandWord_of_fields {w : Word} (h : rsvField w = 0) :
    commandWord (opField w) (dstField w) (srcField w) (dupField w) = w := by
  have hdup : (dupField w).toNat = w.toNat / 2 ^ 24 % 2 := Nat.toNat_testBit ..
  apply BitVec.eq_of_toNat_eq
  rw [commandWord_toNat _ (BitVec.isLt _) (BitVec.isLt _) (BitVec.isLt _), hdup]
  simp only [rsvField, opField, dstField, srcField, BitVec.extractLsb'_toNat,
    Nat.shiftRight_eq_div_pow] at h ⊢
  omega

/-- A well-formed command's word holds the command's fields. -/
theorem hasFields_encode {i : Instr} (h : i.wellFormed = true) : HasFields (encode i) i := by
  obtain ⟨hd, hs⟩ := i.wellFormed_iff.mp h
  have ho : i.opcode < 256 := i.opcode_le.trans_lt (by decide)
  rw [encode_eq_commandWord]
  exact ⟨opField_commandWord _ ho hd hs, dstField_commandWord _ ho hd hs, srcField_commandWord _ ho hd hs,
    dupField_commandWord _ ho hd hs, rsvField_commandWord _ ho hd hs⟩

/-- A word's fields are those of one command word, whose operands fit. -/
theorem hasFields_iff {w : Word} {i : Instr} : HasFields w i ↔ i.wellFormed = true ∧ encode i = w := by
  refine ⟨fun ⟨hop, hdst, hsrc, hdup, hrsv⟩ => ⟨?_, ?_⟩, fun ⟨h, he⟩ => he ▸ hasFields_encode h⟩
  · rw [i.wellFormed_iff, ← hdst, ← hsrc]
    exact ⟨BitVec.isLt _, BitVec.isLt _⟩
  · rw [encode_eq_commandWord, ← hop, ← hdst, ← hsrc, ← hdup, commandWord_of_fields hrsv]

/-! ### Decoding -/

theorem whenZero_eq_ok_iff {zero : Bool} {i j : Instr} : whenZero zero i = .ok j ↔ zero = true ∧ i = j := by
  cases zero <;> simp [whenZero]

/-- An opcode above 0x09 is illegal (30_encoding.md R100). -/
theorem decode_of_reserved_opcode {w : Word} (h : 9 < opField w) : decode w = .error .reservedOpcode :=
  if_pos h

theorem hasFields_of_decode {w : Word} {i : Instr} (h : decode w = .ok i) : HasFields w i := by
  unfold decode at h
  split at h
  · cases h
  split at h
  · cases h
  next hrsv =>
    have hrsv := not_not.mp hrsv
    split at h
    case h_11 => cases h
    all_goals
      obtain ⟨hzero, rfl⟩ := whenZero_eq_ok_iff.mp h
      simp only [Bool.and_eq_true, beq_iff_eq, Bool.not_eq_true'] at hzero
      constructor <;> simp [Instr.opcode, Instr.dstOperand, Instr.srcOperand, Instr.dupOperand, *]

theorem HasFields.decode {w : Word} {i : Instr} (h : HasFields w i) : decode w = .ok i := by
  obtain ⟨hop, hdst, hsrc, hdup, hrsv⟩ := h
  have hle : ¬ 9 < opField w := by
    have := i.opcode_le
    omega
  simp only [Sys2Proof.decode, hle, hrsv, hdst, hsrc, hdup]
  rw [hop]
  cases i <;> rfl

/-- What decoding answers, by the fields of the word (30_encoding.md R100). -/
theorem decode_eq_ok_iff {w : Word} {i : Instr} : decode w = .ok i ↔ HasFields w i :=
  ⟨hasFields_of_decode, HasFields.decode⟩

theorem decode_error_iff {w : Word} : (∃ e, decode w = .error e) ↔ ∀ i, decode w ≠ .ok i := by
  cases decode w <;> simp

/-! ### The rows of the opcode map -/

section Rows

variable {r : OpRow} {w : Word} (h : r.selects w = true)
include h

/-- A word that selects a row agrees with the row's word in every bit of its mask. -/
theorem extractLsb'_of_selects {lo len : Nat} (hm : r.mask.extractLsb' lo len = BitVec.allOnes len) :
    w.extractLsb' lo len = r.word.extractLsb' lo len := by
  have hw : w &&& r.mask = r.word := beq_iff_eq.mp h
  rw [← hw, BitVec.extractLsb'_and, hm, BitVec.and_allOnes]

theorem opField_of_selects (hm : r.mask.extractLsb' 0 8 = 0xFF) : opField w = opField r.word :=
  congrArg BitVec.toNat (extractLsb'_of_selects h hm)

theorem dstField_of_selects (hm : r.mask.extractLsb' 8 8 = 0xFF) : dstField w = dstField r.word :=
  congrArg BitVec.toNat (extractLsb'_of_selects h hm)

theorem srcField_of_selects (hm : r.mask.extractLsb' 16 8 = 0xFF) : srcField w = srcField r.word :=
  congrArg BitVec.toNat (extractLsb'_of_selects h hm)

theorem rsvField_of_selects (hm : r.mask.extractLsb' 25 7 = 0x7F) : rsvField w = rsvField r.word :=
  congrArg BitVec.toNat (extractLsb'_of_selects h hm)

theorem dupField_of_selects (hm : r.mask.getLsbD 24 = true) : dupField w = dupField r.word := by
  have hw : w &&& r.mask = r.word := beq_iff_eq.mp h
  rw [← hw, dupField, dupField, BitVec.getLsbD_and, hm, Bool.and_true]

end Rows

/-- Every row's mask holds the opcode and the reserved bits. -/
theorem opcodeMap_mask :
    ∀ r ∈ opcodeMap, r.mask.extractLsb' 0 8 = 0xFF ∧ r.mask.extractLsb' 25 7 = 0x7F := by decide

/-- A word that selects a row decodes to the row's command: the fields in the row's mask are the row's, and
the others are the command's operands (30_encoding.md R99, R100). -/
theorem decode_of_selects {r : OpRow} {w : Word} (hr : r ∈ opcodeMap) (h : r.selects w = true) :
    ∃ i, decode w = .ok i ∧ mnemonicOf i = r.mnemonic := by
  obtain ⟨hmop, hmrsv⟩ := opcodeMap_mask r hr
  have hop := opField_of_selects h hmop
  have hdst := dstField_of_selects h
  have hsrc := srcField_of_selects h
  have hdup := dupField_of_selects h
  have hrsv := rsvField_of_selects h hmrsv
  simp only [opcodeMap, List.mem_cons, List.not_mem_nil, or_false] at hr
  rcases hr with rfl | rfl | rfl | rfl | rfl | rfl | rfl | rfl | rfl | rfl
  · exact ⟨.nop, HasFields.decode ⟨hop, hdst rfl, hsrc rfl, hdup rfl, hrsv⟩, rfl⟩
  · exact ⟨.configure, HasFields.decode ⟨hop, hdst rfl, hsrc rfl, hdup rfl, hrsv⟩, rfl⟩
  · exact ⟨.set, HasFields.decode ⟨hop, hdst rfl, hsrc rfl, hdup rfl, hrsv⟩, rfl⟩
  · exact ⟨.squareDup (dupField w), HasFields.decode ⟨hop, hdst rfl, hsrc rfl, rfl, hrsv⟩, rfl⟩
  · exact ⟨.copy (dstField w) (srcField w), HasFields.decode ⟨hop, rfl, rfl, hdup rfl, hrsv⟩, rfl⟩
  · exact ⟨.initMult (srcField w), HasFields.decode ⟨hop, hdst rfl, rfl, hdup rfl, hrsv⟩, rfl⟩
  · exact ⟨.mul, HasFields.decode ⟨hop, hdst rfl, hsrc rfl, hdup rfl, hrsv⟩, rfl⟩
  · exact ⟨.getInt, HasFields.decode ⟨hop, hdst rfl, hsrc rfl, hdup rfl, hrsv⟩, rfl⟩
  · exact ⟨.isOne, HasFields.decode ⟨hop, hdst rfl, hsrc rfl, hdup rfl, hrsv⟩, rfl⟩
  · exact ⟨.validate (dstField w), HasFields.decode ⟨hop, rfl, hsrc rfl, hdup rfl, hrsv⟩, rfl⟩

/-- Every command's word selects the row of its mnemonic, and no other row. -/
theorem encodesToItsRow (i : Instr) : Laws.EncodesToItsRow.Statement i := by
  cases i with
  | nop => exact Laws.EncodesToItsRow.nop
  | configure => exact Laws.EncodesToItsRow.configure
  | set => exact Laws.EncodesToItsRow.set
  | squareDup dup => exact Laws.EncodesToItsRow.squareDup dup
  | copy dst src => exact Laws.EncodesToItsRow.copy dst src
  | initMult src => exact Laws.EncodesToItsRow.initMult src
  | mul => exact Laws.EncodesToItsRow.mul
  | getInt => exact Laws.EncodesToItsRow.getInt
  | isOne => exact Laws.EncodesToItsRow.isOne
  | validate dst => exact Laws.EncodesToItsRow.validate dst

/-- A row is known by its mnemonic. -/
theorem opcodeMap_mnemonic_injOn : ∀ r ∈ opcodeMap, ∀ q ∈ opcodeMap, r.mnemonic = q.mnemonic → r = q :=
  fun _ hr _ hq => List.inj_on_of_nodup_map (by decide) hr hq

/-- A word that decodes to a command selects a row, that of the command's mnemonic. -/
theorem exists_row_of_decode {w : Word} {i : Instr} (h : decode w = .ok i) :
    ∃ r ∈ opcodeMap, r.selects w = true ∧ mnemonicOf i = r.mnemonic := by
  obtain ⟨hwf, rfl⟩ := hasFields_iff.mp (hasFields_of_decode h)
  have hmem : mnemonicOf i ∈ (opcodeMap.filter fun r => r.selects (encode i)).map OpRow.mnemonic := by
    rw [encodesToItsRow i hwf]
    exact List.mem_singleton_self _
  obtain ⟨r, hr, hm⟩ := List.mem_map.mp hmem
  obtain ⟨hrow, hsel⟩ := List.mem_filter.mp hr
  exact ⟨r, hrow, hsel, hm.symm⟩

theorem selects_iff_decode {r : OpRow} {w : Word} (hr : r ∈ opcodeMap) :
    r.selects w = true ↔ ∃ i, decode w = .ok i ∧ mnemonicOf i = r.mnemonic := by
  refine ⟨decode_of_selects hr, fun ⟨i, hdec, hm⟩ => ?_⟩
  obtain ⟨q, hq, hsel, hmq⟩ := exists_row_of_decode hdec
  rwa [opcodeMap_mnemonic_injOn r hr q hq (hm.symm.trans hmq)]

/-- A word is illegal exactly when it selects no row (30_encoding.md R100). -/
theorem decode_error_iff_no_row {w : Word} :
    (∃ e, decode w = .error e) ↔ ∀ r ∈ opcodeMap, r.selects w = false := by
  rw [decode_error_iff]
  refine ⟨fun h r hr => ?_, fun h i hdec => ?_⟩
  · refine Bool.eq_false_of_not_eq_true fun hsel => ?_
    obtain ⟨i, hdec, -⟩ := decode_of_selects hr hsel
    exact h i hdec
  · obtain ⟨r, hr, hsel, -⟩ := exists_row_of_decode hdec
    rw [h r hr] at hsel
    cases hsel

end Sys2Proof

namespace Sys2Proof.Machine

/-! ### An illegal word in the machine -/

theorem writeReg_cmd_idle {s : State} (hb : s.busy = false) (w : Word) :
    writeReg .cmd w s = acceptCommand w s := by
  simp only [writeReg, writeCmd, hb, Bool.false_eq_true, if_false]

/-- A completion step of an illegal word completes with ILLEGAL (30_encoding.md R101). -/
theorem step_of_illegal {s : State} (hb : s.busy = true) (hr : s.remaining = 0)
    (h : ∃ e, decode s.cmdLat = .error e) : step s = .next (complete .illegal s) := by
  obtain ⟨-, -, hstep⟩ | ⟨hbusy | hrem, -⟩ := step_cases s
  · obtain ⟨i, hi, -⟩ | ⟨-, -, hrun⟩ := runCommand_cases s
    · exact absurd hi (decode_error_iff.mp h i)
    · rw [hstep, hrun]
  · rw [hb] at hbusy
    cases hbusy
  · exact absurd hr hrem

end Sys2Proof.Machine

/-!
PROOF. The encoding: decoding and encoding are inverse, the rows of the opcode map decide both, and what an
illegal word does (30_encoding.md R95 to R104).
-/

namespace Sys2Proof.Machine

/-- Settles O1: a well-formed command's word holds its fields, and decoding goes by the fields. -/
theorem decodeOfEncode : Obligations.DecodeOfEncode :=
  fun _ h => (hasFields_encode h).decode

/-- Settles O2: the fields of a word that decodes are the command's, and a word is its fields. -/
theorem encodeOfDecode : Obligations.EncodeOfDecode :=
  fun _ _ h => hasFields_iff.mp (hasFields_of_decode h)

/-- Settles O3: selecting a row fixes the fields the row marks "0", and a command's word selects the row of
its mnemonic. -/
theorem rowsDecideDecoding : Obligations.RowsDecideDecoding :=
  ⟨fun _ _ => selects_iff_decode, fun _ => decode_error_iff_no_row⟩

/-- Settles O4: the four words are those of the four commands. -/
theorem sampleWordsDecode : Obligations.SampleWordsDecode :=
  ⟨decodeOfEncode (.squareDup true) rfl, decodeOfEncode (.copy 1 0) rfl, decodeOfEncode (.initMult 2) rfl,
    decodeOfEncode (.validate 255) rfl⟩

/-- Settles O6, by the rows, the acceptance of a command, and the completion of an illegal one. -/
theorem illegalWordCompletes : Obligations.IllegalWordCompletes := by
  refine ⟨fun w => ⟨fun h => ?_, ?_⟩, fun s w hb _ => ?_, fun s hb hr h => step_of_illegal hb hr h⟩
  · exact (Nat.lt_or_ge 9 (opField w)).imp_right fun hop => ⟨hop, decode_error_iff_no_row.mp h⟩
  · rintro (hop | ⟨-, hrows⟩)
    · exact ⟨_, decode_of_reserved_opcode hop⟩
    · exact decode_error_iff_no_row.mpr hrows
  · rw [writeReg_cmd_idle hb]
    exact ⟨acceptCommand_busy w s, acceptCommand_done w s, acceptCommand_cmdLat w s⟩

end Sys2Proof.Machine

/-!
SUPPORT. Exact arithmetic: a pair (re, im) over a commutative ring K is an element of K[i], and each operation
of the datapath is the operation of K[i] its rule names (40_lane_vector.md R112 to R120). Statements about
complex lanes become identities of a commutative ring.
-/

namespace Sys2Proof.Machine

/-- K[i], where i² = −1. -/
abbrev Gauss (K : Type) [CommRing K] : Type := QuadraticAlgebra K (-1) 0

section Gauss

open scoped QuadraticAlgebra

variable {K : Type} [CommRing K]

/-- The element re + i·im of K[i] that a complex lane stands for. -/
def Cx.toGauss (z : Cx K) : Gauss K := ⟨z.re, z.im⟩

/-- The imaginary unit of K[i]. -/
def imagUnit (K : Type) [CommRing K] : Gauss K := ⟨0, 1⟩

/-- The root a stored twiddle (c, t) stands for: c + i·c·t (41_butterflies.md R134). -/
def Tw.root (w : Tw K) : Cx K := ⟨w.c, w.c * w.t⟩

theorem Cx.toGauss_injective : Function.Injective (Cx.toGauss (K := K)) := by
  rintro ⟨a, b⟩ ⟨c, d⟩ h
  obtain ⟨rfl, rfl⟩ := QuadraticAlgebra.mk.inj h
  rfl

theorem imagUnit_mul_self : imagUnit K * imagUnit K = -1 := by ext <;> simp [imagUnit]

@[simp] theorem star_algebraMap_gauss (s : K) :
    star (algebraMap K (Gauss K) s) = algebraMap K (Gauss K) s := by
  ext <;> simp

@[simp] theorem star_imagUnit : star (imagUnit K) = -imagUnit K := by ext <;> simp [imagUnit]

@[simp] theorem toGauss_add (z r : Cx K) : (cxAdd (exactArith K) z r).toGauss = z.toGauss + r.toGauss := rfl

@[simp] theorem toGauss_sub (z r : Cx K) : (cxSub (exactArith K) z r).toGauss = z.toGauss - r.toGauss := rfl

@[simp] theorem toGauss_scale (s : K) (z : Cx K) :
    (cxScale (exactArith K) s z).toGauss = algebraMap K (Gauss K) s * z.toGauss := by
  ext <;> simp [Cx.toGauss, cxScale, exactArith]

@[simp] theorem toGauss_mul (z r : Cx K) : (cxMul (exactArith K) z r).toGauss = z.toGauss * r.toGauss := by
  ext <;> simp [Cx.toGauss, cxMul, exactArith, sub_eq_add_neg]

@[simp] theorem toGauss_conj (z : Cx K) : (cxConj (exactArith K) z).toGauss = star z.toGauss := by
  ext <;> simp [Cx.toGauss, cxConj, exactArith]

@[simp] theorem toGauss_sqr (z : Cx K) : (cxSqr (exactArith K) z).toGauss = z.toGauss * z.toGauss := by
  ext <;> simp [Cx.toGauss, cxSqr, exactArith] <;> ring

@[simp] theorem toGauss_muli (z : Cx K) : (muli (exactArith K) z).toGauss = imagUnit K * z.toGauss := by
  ext <;> simp [Cx.toGauss, muli, exactArith, imagUnit]

@[simp] theorem toGauss_mulmi (z : Cx K) : (mulmi (exactArith K) z).toGauss = -imagUnit K * z.toGauss := by
  ext <;> simp [Cx.toGauss, mulmi, exactArith, imagUnit]

@[simp] theorem toGauss_addi (z r : Cx K) :
    (addi (exactArith K) z r).toGauss = z.toGauss + imagUnit K * r.toGauss := by
  ext <;> simp [Cx.toGauss, addi, exactArith, imagUnit, sub_eq_add_neg]

@[simp] theorem toGauss_subi (z r : Cx K) :
    (subi (exactArith K) z r).toGauss = z.toGauss - imagUnit K * r.toGauss := by
  ext <;> simp [Cx.toGauss, subi, exactArith, imagUnit]

@[simp] theorem toGauss_mul1i (z : Cx K) :
    (mul1i (exactArith K) z).toGauss = (1 + imagUnit K) * z.toGauss := by
  ext <;> simp [Cx.toGauss, mul1i, exactArith, imagUnit] <;> ring

@[simp] theorem toGauss_mul1mi (z : Cx K) :
    (mul1mi (exactArith K) z).toGauss = (1 - imagUnit K) * z.toGauss := by
  ext <;> simp [Cx.toGauss, mul1mi, exactArith, imagUnit]; ring

/-- Gentleman's form multiplies by the root the twiddle stands for (40_lane_vector.md R113). -/
@[simp] theorem toGauss_mulW (z : Cx K) (w : Tw K) :
    (mulW (exactArith K) z w).toGauss = w.root.toGauss * z.toGauss := by
  ext <;> simp [Cx.toGauss, mulW, exactArith, Tw.root] <;> ring

/-- Its conjugate form multiplies by the conjugate root (40_lane_vector.md R114). -/
@[simp] theorem toGauss_mulWconj (z : Cx K) (w : Tw K) :
    (mulWconj (exactArith K) z w).toGauss = star w.root.toGauss * z.toGauss := by
  ext <;> simp [Cx.toGauss, mulWconj, exactArith, Tw.root] <;> ring

/-! ### The pointwise stage -/

theorem two_mul_algebraMap_half {half : K} (h2 : 2 * half = 1) : 2 * algebraMap K (Gauss K) half = 1 := by
  rw [← map_ofNat (algebraMap K (Gauss K)), ← map_mul, h2, map_one]

/-- The pair's value at ρ and at its conjugate give back the spectrum of the real parts
(41_butterflies.md R149). -/
theorem realSpectrum_of_pair {half : K} (h2 : 2 * half = 1) (r h : Cx K) :
    realSpectrum (exactArith K) half (addi (exactArith K) r h)
      (addi (exactArith K) (cxConj (exactArith K) r) (cxConj (exactArith K) h)) = r := by
  apply Cx.toGauss_injective
  simp only [realSpectrum, toGauss_scale, toGauss_add, toGauss_conj, toGauss_addi, star_add, star_mul',
    star_star, star_imagUnit]
  linear_combination r.toGauss * two_mul_algebraMap_half h2

/-- The pair's values at ρ and at its conjugate give back the spectrum of the imaginary parts
(41_butterflies.md R149). -/
theorem imagSpectrum_of_pair {half : K} (h2 : 2 * half = 1) (r h : Cx K) :
    imagSpectrum (exactArith K) half (addi (exactArith K) r h)
      (addi (exactArith K) (cxConj (exactArith K) r) (cxConj (exactArith K) h)) = h := by
  apply Cx.toGauss_injective
  simp only [imagSpectrum, toGauss_mulmi, toGauss_scale, toGauss_sub, toGauss_conj, toGauss_addi, star_add,
    star_mul', star_star, star_imagUnit]
  linear_combination h.toGauss * two_mul_algebraMap_half h2 -
    2 * algebraMap K (Gauss K) half * h.toGauss * imagUnit_mul_self (K := K)

end Gauss

end Sys2Proof.Machine

/-!
SUPPORT. Levels and stages of a transform, over any butterfly: where the two samples of a level and the four or
eight samples of a stage lie, two levels as one map of four samples, three as one of eight, and a run of stages
as a run of levels (41_butterflies.md R127, R128, R145).
-/

namespace Sys2Proof.Machine

section Levels

variable {α : Type}

/-- A two-point butterfly. -/
abbrev Butterfly (α : Type) : Type := Cx α → Cx α → Cx α × Cx α

/-- The butterfly of a forward level at a node with root δ (41_butterflies.md R127). -/
def forwardPair (A : Arith α) (delta : Cx α) : Butterfly α := fun a b =>
  (cxAdd A a (cxMul A delta b), cxSub A a (cxMul A delta b))

/-- The butterfly of an inverse level at a node with root δ (41_butterflies.md R128). -/
def inversePair (A : Arith α) (delta : Cx α) : Butterfly α := fun a b =>
  (cxAdd A a b, cxMul A (cxConj A delta) (cxSub A a b))

/-- The value level s leaves at position p, with f_j the butterfly of node j. -/
def pairLevel (f : Nat → Butterfly α) (n s : Nat) (x : Nat → Cx α) (p : Nat) : Cx α :=
  let h := n / 2 ^ s / 2
  let j := p / (2 * h)
  let i := j * (2 * h) + p % h
  if p / h % 2 = 0 then (f j (x i) (x (i + h))).1 else (f j (x i) (x (i + h))).2

theorem forwardLevelAt_eq_pairLevel (A : Arith α) (delta : Nat → Cx α) (n s : Nat) (x : Nat → Cx α) :
    forwardLevelAt A delta n s x = pairLevel (fun j => forwardPair A (delta j)) n s x := rfl

theorem inverseLevelAt_eq_pairLevel (A : Arith α) (delta : Nat → Cx α) (n s : Nat) (x : Nat → Cx α) :
    inverseLevelAt A delta n s x = pairLevel (fun j => inversePair A (delta j)) n s x := rfl

/-! ### Positions -/

/-- A position by its block of m·q, its row of q in the block, and its column. -/
theorem block_row_column (m q p : Nat) : p / (m * q) * (m * q) + p % q + p / q % m * q = p := by
  have hrow := Nat.div_add_mod' (p / q) m
  have hcol := Nat.div_add_mod' p q
  rw [Nat.mul_comm m q, ← Nat.div_div_eq_div_mul]
  calc p / q / m * (q * m) + p % q + p / q % m * q
      = (p / q / m * m + p / q % m) * q + p % q := by ring
    _ = p := by rw [hrow, hcol]

theorem row_of_position {m q j c r : Nat} (hc : c < q) : (j * (m * q) + c + r * q) / q = j * m + r := by
  rw [show j * (m * q) + c + r * q = c + (j * m + r) * q by ring, Nat.add_mul_div_right _ _ (by omega),
    Nat.div_eq_of_lt hc, Nat.zero_add]

theorem block_of_position {m q j c r : Nat} (hc : c < q) (hr : r < m) :
    (j * (m * q) + c + r * q) / (m * q) = j := by
  rw [Nat.mul_comm m q, ← Nat.div_div_eq_div_mul, Nat.mul_comm q m, row_of_position hc, Nat.mul_comm j m,
    Nat.mul_add_div (by omega), Nat.div_eq_of_lt hr, Nat.add_zero]

theorem column_of_position {m q j c r : Nat} (hc : c < q) : (j * (m * q) + c + r * q) % q = c := by
  rw [show j * (m * q) + c + r * q = c + q * (j * m + r) by ring, Nat.add_mul_mod_self_left,
    Nat.mod_eq_of_lt hc]

/-! ### One level -/

section
variable {f g : Nat → Butterfly α} {n s h j c p : Nat} (x : Nat → Cx α)

/-- What a level leaves at the first of the two samples of a butterfly. -/
theorem pairLevel_fst (hh : n / 2 ^ s / 2 = h) (hc : c < h) (hp : p = j * (2 * h) + c) :
    pairLevel f n s x p = (f j (x p) (x (p + h))).1 := by
  have hblock : p / (2 * h) = j := by
    simpa [hp] using block_of_position (j := j) (m := 2) (r := 0) hc (by decide)
  have hcol : p % h = c := by simpa [hp] using column_of_position (j := j) (m := 2) (r := 0) hc
  have hrow : p / h = j * 2 := by simpa [hp] using row_of_position (j := j) (m := 2) (r := 0) hc
  simp only [pairLevel, hh, hblock, hcol, hrow, Nat.mul_mod_left, if_true, ← hp]

/-- What a level leaves at the second of the two samples of a butterfly. -/
theorem pairLevel_snd (hh : n / 2 ^ s / 2 = h) (hc : c < h) (hp : p = j * (2 * h) + c) :
    pairLevel f n s x (p + h) = (f j (x p) (x (p + h))).2 := by
  have hblock : (p + h) / (2 * h) = j := by
    simpa [hp] using block_of_position (j := j) (m := 2) (r := 1) hc (by decide)
  have hcol : (p + h) % h = c := by simpa [hp] using column_of_position (j := j) (m := 2) (r := 1) hc
  have hrow : (p + h) / h = j * 2 + 1 := by simpa [hp] using row_of_position (j := j) (m := 2) (r := 1) hc
  simp only [pairLevel, hh, hblock, hcol, hrow, ← hp]
  rw [if_neg (by omega)]

/-- A position is the first or the second sample of a butterfly. -/
theorem pair_position (hh : 0 < h) (p : Nat) :
    ∃ j c i, c < h ∧ i = j * (2 * h) + c ∧ (p = i ∨ p = i + h) := by
  refine ⟨p / (2 * h), p % h, _, Nat.mod_lt _ hh, rfl, ?_⟩
  have hp := block_row_column 2 h p
  obtain h0 | h1 := Nat.mod_two_eq_zero_or_one (p / h)
  · exact .inl (by rw [h0] at hp; omega)
  · exact .inr (by rw [h1] at hp; omega)

/-- A level of N = 2^l samples reads no position from N on to write one below N. -/
theorem pairLevel_eqOn {l : Nat} {x y : Nat → Cx α} (hxy : Set.EqOn x y (Set.Iio (2 ^ l))) :
    Set.EqOn (pairLevel f (2 ^ l) s x) (pairLevel f (2 ^ l) s y) (Set.Iio (2 ^ l)) := by
  intro p hp
  obtain hs | hs := Nat.lt_or_ge s l
  · obtain ⟨h, hh, hpow⟩ : ∃ h, 0 < h ∧ 2 ^ l = 2 ^ s * (2 * h) :=
      ⟨2 ^ (l - s - 1), by positivity, by rw [← pow_succ', ← pow_add]; congr 1; omega⟩
    have hhalf : 2 ^ l / 2 ^ s / 2 = h := by
      rw [hpow, Nat.mul_div_cancel_left _ (by positivity), Nat.mul_div_cancel_left _ (by decide)]
    obtain ⟨j, c, i, hc, hi, hpos⟩ := pair_position hh p
    have hj : j < 2 ^ s := by
      by_contra hle
      have := Nat.mul_le_mul_right (2 * h) (Nat.not_lt.mp hle)
      have hp' : p < 2 ^ l := hp
      omega
    have hlt : i + h < 2 ^ l := by
      have := Nat.mul_le_mul_right (2 * h) (Nat.succ_le_of_lt hj)
      rw [Nat.succ_mul] at this
      omega
    have hfst : x i = y i := hxy (Set.mem_Iio.mpr (by omega))
    have hsnd : x (i + h) = y (i + h) := hxy hlt
    obtain rfl | rfl := hpos
    · rw [pairLevel_fst x hhalf hc hi, pairLevel_fst y hhalf hc hi, hfst, hsnd]
    · rw [pairLevel_snd x hhalf hc hi, pairLevel_snd y hhalf hc hi, hfst, hsnd]
  · have hhalf : 2 ^ l / 2 ^ s / 2 = 0 := by
      have : 2 ^ l / 2 ^ s ≤ 1 :=
        Nat.div_le_of_le_mul (by simpa using Nat.pow_le_pow_right (by decide : 0 < 2) hs)
      exact Nat.div_eq_of_lt (Nat.lt_succ_of_le this)
    simp only [pairLevel, hhalf, Nat.mul_zero, Nat.zero_add, Nat.add_zero, Nat.mod_zero, hxy hp]

end

/-! ### Two levels on four samples -/

/-- The four samples q apart from position i on. -/
def quad (x : Nat → Cx α) (q i : Nat) : X4 α := ⟨x i, x (i + q), x (i + 2 * q), x (i + 3 * q)⟩

/-- A butterfly on the samples two apart of four. -/
def pairFar (f : Butterfly α) (x : X4 α) : X4 α :=
  ⟨(f x.x0 x.x2).1, (f x.x1 x.x3).1, (f x.x0 x.x2).2, (f x.x1 x.x3).2⟩

/-- Two butterflies on the neighbouring samples of four. -/
def pairNear (g0 g1 : Butterfly α) (x : X4 α) : X4 α :=
  ⟨(g0 x.x0 x.x1).1, (g0 x.x0 x.x1).2, (g1 x.x2 x.x3).1, (g1 x.x2 x.x3).2⟩

theorem x4Get_quad (x : Nat → Cx α) (q i : Nat) {r : Nat} (hr : r < 4) :
    x4Get (quad x q i) r = x (i + r * q) := by
  interval_cases r <;> simp [x4Get, quad]

section
variable {f : Nat → Butterfly α} {n s q j c i : Nat} (x : Nat → Cx α)

/-- Level s on the four samples of a radix-4 butterfly of node (s, j). -/
theorem quad_pairLevel (hn : n / 2 ^ s = 4 * q) (hc : c < q) (hi : i = j * (4 * q) + c) :
    quad (pairLevel f n s x) q i = pairFar (f j) (quad x q i) := by
  have hh : n / 2 ^ s / 2 = 2 * q := by omega
  have h0 : i = j * (2 * (2 * q)) + c := by rw [hi]; ring
  have h1 : i + q = j * (2 * (2 * q)) + (c + q) := by rw [hi]; ring
  have h3 : i + 3 * q = i + q + 2 * q := by ring
  simp only [quad, pairFar, h3, pairLevel_fst x hh (by omega) h0, pairLevel_snd x hh (by omega) h0,
    pairLevel_fst x hh (by omega) h1, pairLevel_snd x hh (by omega) h1]

/-- Level s + 1 on the four samples of a radix-4 butterfly of node (s, j). -/
theorem quad_pairLevel_succ (hn : n / 2 ^ s = 4 * q) (hc : c < q) (hi : i = j * (4 * q) + c) :
    quad (pairLevel f n (s + 1) x) q i = pairNear (f (2 * j)) (f (2 * j + 1)) (quad x q i) := by
  have hh : n / 2 ^ (s + 1) / 2 = q := by
    rw [pow_succ, ← Nat.div_div_eq_div_mul]
    omega
  have h0 : i = 2 * j * (2 * q) + c := by rw [hi]; ring
  have h2 : i + 2 * q = (2 * j + 1) * (2 * q) + c := by rw [hi]; ring
  have h3 : i + 3 * q = i + 2 * q + q := by ring
  simp only [quad, pairNear, h3, pairLevel_fst x hh hc h0, pairLevel_snd x hh hc h0,
    pairLevel_fst x hh hc h2, pairLevel_snd x hh hc h2]

end

/-- Forward levels s and s + 1 on four samples, with the roots of their three nodes. -/
def forwardNode (A : Arith α) (d e0 e1 : Cx α) (x : X4 α) : X4 α :=
  pairNear (forwardPair A e0) (forwardPair A e1) (pairFar (forwardPair A d) x)

/-- Inverse levels s + 1 and s on four samples, with the roots of their three nodes. -/
def inverseNode (A : Arith α) (d e0 e1 : Cx α) (y : X4 α) : X4 α :=
  pairFar (inversePair A d) (pairNear (inversePair A e0) (inversePair A e1) y)

section
variable (A : Arith α) (root : Nat → Nat → Cx α) {n s q j c i : Nat} (x : Nat → Cx α)

theorem quad_forwardLevels (hn : n / 2 ^ s = 4 * q) (hc : c < q) (hi : i = j * (4 * q) + c) :
    quad (forwardLevelAt A (root (s + 1)) n (s + 1) (forwardLevelAt A (root s) n s x)) q i =
      forwardNode A (root s j) (root (s + 1) (2 * j)) (root (s + 1) (2 * j + 1)) (quad x q i) := by
  rw [forwardLevelAt_eq_pairLevel, quad_pairLevel_succ _ hn hc hi, forwardLevelAt_eq_pairLevel,
    quad_pairLevel _ hn hc hi, forwardNode]

theorem quad_inverseLevels (hn : n / 2 ^ s = 4 * q) (hc : c < q) (hi : i = j * (4 * q) + c) :
    quad (inverseLevelAt A (root s) n s (inverseLevelAt A (root (s + 1)) n (s + 1) x)) q i =
      inverseNode A (root s j) (root (s + 1) (2 * j)) (root (s + 1) (2 * j + 1)) (quad x q i) := by
  rw [inverseLevelAt_eq_pairLevel, quad_pairLevel _ hn hc hi, inverseLevelAt_eq_pairLevel,
    quad_pairLevel_succ _ hn hc hi, inverseNode]

end

/-- A radix-4 stage leaves y where its butterflies take the samples of x to those of y. -/
theorem stage4At_eq {even odd : TwTriple α → X4 α → X4 α} {tri : Nat → TwTriple α} {n s q : Nat}
    {x y : Nat → Cx α} (hn : n / 2 ^ s = 4 * q) (hq : 0 < q)
    (heven : ∀ j c, j % 2 = 0 → c < q →
      even (tri j) (quad x q (j * (4 * q) + c)) = quad y q (j * (4 * q) + c))
    (hodd : ∀ j c, j % 2 = 1 → c < q →
      odd (tri (j - 1)) (quad x q (j * (4 * q) + c)) = quad y q (j * (4 * q) + c)) (p : Nat) :
    stage4At even odd tri n s x p = y p := by
  have hquarter : n / 2 ^ s / 4 = q := by omega
  have hcol : p % q < q := Nat.mod_lt _ hq
  have hget := x4Get_quad y q (p / (4 * q) * (4 * q) + p % q) (Nat.mod_lt (p / q) (by decide : 0 < 4))
  rw [block_row_column] at hget
  simp only [stage4At, hquarter]
  split
  · next h => exact (congrArg (x4Get · _) (heven _ _ h hcol)).trans hget
  · next h => exact (congrArg (x4Get · _) (hodd _ _ (by omega) hcol)).trans hget

/-- The top radix-4 stage leaves y where its butterfly takes the samples of x to those of y. -/
theorem top4At_eq {f : X4 α → X4 α} {n q p : Nat} {x y : Nat → Cx α} (hn : n = 4 * q) (hp : p < n)
    (h : ∀ c, c < q → f (quad x q c) = quad y q c) : top4At f n x p = y p := by
  have hquarter : n / 4 = q := by omega
  have hget := x4Get_quad y q (p % q) (Nat.div_lt_of_lt_mul (by omega) : p / q < 4)
  rw [Nat.mod_add_div'] at hget
  simp only [top4At, hquarter]
  exact (congrArg (x4Get · _) (h _ (Nat.mod_lt _ (by omega)))).trans hget

/-! ### Three levels on eight samples -/

/-- Eight samples from their first four and their last four. -/
def X8.ofHalves (a b : X4 α) : X8 α := ⟨a.x0, a.x1, a.x2, a.x3, b.x0, b.x1, b.x2, b.x3⟩

/-- A butterfly on the samples four apart of eight: the first four it leaves. -/
def pairFirst (f : Butterfly α) (a b : X4 α) : X4 α :=
  ⟨(f a.x0 b.x0).1, (f a.x1 b.x1).1, (f a.x2 b.x2).1, (f a.x3 b.x3).1⟩

/-- A butterfly on the samples four apart of eight: the last four it leaves. -/
def pairLast (f : Butterfly α) (a b : X4 α) : X4 α :=
  ⟨(f a.x0 b.x0).2, (f a.x1 b.x1).2, (f a.x2 b.x2).2, (f a.x3 b.x3).2⟩

/-- The eight samples q apart from position i on. -/
def oct (x : Nat → Cx α) (q i : Nat) : X8 α := X8.ofHalves (quad x q i) (quad x q (i + 4 * q))

theorem oct_eq (x : Nat → Cx α) (q i : Nat) :
    oct x q i = ⟨x i, x (i + q), x (i + 2 * q), x (i + 3 * q), x (i + 4 * q), x (i + 5 * q),
      x (i + 6 * q), x (i + 7 * q)⟩ := by
  simp only [oct, X8.ofHalves, quad, Nat.add_assoc, ← Nat.succ_mul, ← Nat.add_mul]

theorem x8Get_oct (x : Nat → Cx α) (q i : Nat) {r : Nat} (hr : r < 8) :
    x8Get (oct x q i) r = x (i + r * q) := by
  rw [oct_eq]
  interval_cases r <;> simp [x8Get]

/-- The top radix-8 stage leaves y where its butterfly takes the samples of x to those of y. -/
theorem top8At_eq {f : X8 α → X8 α} {n q p : Nat} {x y : Nat → Cx α} (hn : n = 8 * q) (hp : p < n)
    (h : ∀ c, c < q → f (oct x q c) = oct y q c) : top8At f n x p = y p := by
  have heighth : n / 8 = q := by omega
  have hget := x8Get_oct y q (p % q) (Nat.div_lt_of_lt_mul (by omega) : p / q < 8)
  rw [Nat.mod_add_div'] at hget
  simp only [top8At, heighth, ← oct_eq]
  exact (congrArg (x8Get · _) (h _ (Nat.mod_lt _ (by omega)))).trans hget

section
variable {f : Nat → Butterfly α} {n q c : Nat} (x : Nat → Cx α)

/-- Level 0 on the first four of the eight samples of the top radix-8 butterfly. -/
theorem quad_pairLevel_first (hn : n = 8 * q) (hc : c < q) :
    quad (pairLevel f n 0 x) q c = pairFirst (f 0) (quad x q c) (quad x q (c + 4 * q)) := by
  have hfst (a : Nat) (ha : a < 4 * q) : pairLevel f n 0 x a = (f 0 (x a) (x (a + 4 * q))).1 :=
    pairLevel_fst x (by omega) ha (by omega)
  simp only [quad, pairFirst, Nat.add_right_comm c (4 * q), hfst c (by omega), hfst (c + q) (by omega),
    hfst (c + 2 * q) (by omega), hfst (c + 3 * q) (by omega)]

/-- Level 0 on the last four of the eight samples of the top radix-8 butterfly. -/
theorem quad_pairLevel_last (hn : n = 8 * q) (hc : c < q) :
    quad (pairLevel f n 0 x) q (c + 4 * q) = pairLast (f 0) (quad x q c) (quad x q (c + 4 * q)) := by
  have hsnd (a : Nat) (ha : a < 4 * q) : pairLevel f n 0 x (a + 4 * q) = (f 0 (x a) (x (a + 4 * q))).2 :=
    pairLevel_snd x (by omega) ha (by omega)
  simp only [quad, pairLast, Nat.add_right_comm c (4 * q), hsnd c (by omega), hsnd (c + q) (by omega),
    hsnd (c + 2 * q) (by omega), hsnd (c + 3 * q) (by omega)]

end

end Levels

end Sys2Proof.Machine

/-!
SUPPORT. The butterflies in exact arithmetic are two or three levels of the tree, forward and inverse
(41_butterflies.md R137 to R144).
-/

namespace Sys2Proof.Machine

section Butterflies

open scoped QuadraticAlgebra

variable {K : Type} [CommRing K]

theorem X4.eq_of_toGauss {x y : X4 K} (h0 : x.x0.toGauss = y.x0.toGauss) (h1 : x.x1.toGauss = y.x1.toGauss)
    (h2 : x.x2.toGauss = y.x2.toGauss) (h3 : x.x3.toGauss = y.x3.toGauss) : x = y := by
  cases x
  cases y
  rw [X4.mk.injEq]
  exact ⟨Cx.toGauss_injective h0, Cx.toGauss_injective h1, Cx.toGauss_injective h2, Cx.toGauss_injective h3⟩

theorem X8.eq_of_halves {α : Type} {x y : X8 α}
    (hfirst : (⟨x.x0, x.x1, x.x2, x.x3⟩ : X4 α) = ⟨y.x0, y.x1, y.x2, y.x3⟩)
    (hlast : (⟨x.x4, x.x5, x.x6, x.x7⟩ : X4 α) = ⟨y.x4, y.x5, y.x6, y.x7⟩) : x = y := by
  obtain ⟨h0, h1, h2, h3⟩ := X4.mk.inj hfirst
  obtain ⟨h4, h5, h6, h7⟩ := X4.mk.inj hlast
  cases x
  cases y
  exact (X8.mk.injEq ..).mpr ⟨h0, h1, h2, h3, h4, h5, h6, h7⟩

/-! ### The roots of the tree -/

theorem toGauss_treeRoot_zero (k : Roots K) (j : Nat) : (treeRoot k 0 j).toGauss = imagUnit K := rfl

theorem toGauss_treeRoot_one_zero (k : Roots K) :
    (treeRoot k 1 0).toGauss = algebraMap K (Gauss K) k.sqrth * (1 + imagUnit K) := by
  ext <;> simp [treeRoot, Cx.toGauss, imagUnit]

theorem toGauss_treeRoot_one_one (k : Roots K) :
    (treeRoot k 1 1).toGauss = imagUnit K * (algebraMap K (Gauss K) k.sqrth * (1 + imagUnit K)) := by
  ext <;> simp [treeRoot, Cx.toGauss, imagUnit]

/-- Below the two top levels the root of an even node is its stored twiddle's (41_butterflies.md R134). -/
theorem treeRoot_even (k : Roots K) {s j : Nat} (hs : 2 ≤ s) (hj : j % 2 = 0) :
    treeRoot k s j = (k.tw s j).root := by
  obtain ⟨s, rfl⟩ := Nat.exists_eq_add_of_le' hs
  simp only [treeRoot, deltaOf, hj, if_true, Nat.sub_zero, Tw.root, exactArith]

/-- Below the two top levels the root of an odd node is i times its even neighbour's
(41_butterflies.md R127). -/
theorem treeRoot_odd (k : Roots K) {s j : Nat} (hs : 2 ≤ s) (hj : j % 2 = 1) :
    treeRoot k s j = muli (exactArith K) (k.tw s (j - 1)).root := by
  obtain ⟨s, rfl⟩ := Nat.exists_eq_add_of_le' hs
  simp only [treeRoot, deltaOf, hj, one_ne_zero, if_false, Tw.root, exactArith]

/-! ### Radix 4 -/

theorem forward4e_eq (w w1 : Tw K) (x : X4 K) :
    forward4e (exactArith K) w w1 x =
      forwardNode (exactArith K) w.root w1.root (muli (exactArith K) w1.root) x := by
  apply X4.eq_of_toGauss <;> simp [forward4e, forwardNode, pairNear, pairFar, forwardPair] <;> ring

theorem forward4o_eq (w w2 : Tw K) (x : X4 K) :
    forward4o (exactArith K) w w2 x =
      forwardNode (exactArith K) (muli (exactArith K) w.root) w2.root (muli (exactArith K) w2.root) x := by
  apply X4.eq_of_toGauss <;> simp [forward4o, forwardNode, pairNear, pairFar, forwardPair] <;> ring

theorem backward4e_eq (w w1 : Tw K) (y : X4 K) :
    backward4e (exactArith K) w w1 y =
      inverseNode (exactArith K) w.root w1.root (muli (exactArith K) w1.root) y := by
  apply X4.eq_of_toGauss <;> simp [backward4e, inverseNode, pairNear, pairFar, inversePair] <;> ring

theorem backward4o_eq (w w2 : Tw K) (y : X4 K) :
    backward4o (exactArith K) w w2 y =
      inverseNode (exactArith K) (muli (exactArith K) w.root) w2.root (muli (exactArith K) w2.root) y := by
  apply X4.eq_of_toGauss <;> simp [backward4o, inverseNode, pairNear, pairFar, inversePair] <;> ring

theorem forward4_0_eq (k : Roots K) (x : X4 K) :
    forward4_0 (exactArith K) k.sqrth x =
      forwardNode (exactArith K) (treeRoot k 0 0) (treeRoot k 1 0) (treeRoot k 1 1) x := by
  apply X4.eq_of_toGauss <;>
    simp [forward4_0, forwardNode, pairNear, pairFar, forwardPair, toGauss_treeRoot_zero,
      toGauss_treeRoot_one_zero, toGauss_treeRoot_one_one] <;> ring

theorem backward4_0_eq (k : Roots K) (y : X4 K) :
    backward4_0 (exactArith K) k.sqrth y =
      inverseNode (exactArith K) (treeRoot k 0 0) (treeRoot k 1 0) (treeRoot k 1 1) y := by
  apply X4.eq_of_toGauss <;>
    simp [backward4_0, inverseNode, pairNear, pairFar, inversePair, toGauss_treeRoot_zero,
      toGauss_treeRoot_one_zero, toGauss_treeRoot_one_one] <;> ring

/-! ### Radix 8 -/

/-- Forward levels 1 and 2 on the four samples of node (1, j). -/
def forwardTopNode (k : Roots K) (j : Nat) : X4 K → X4 K :=
  forwardNode (exactArith K) (treeRoot k 1 j) (treeRoot k 2 (2 * j)) (treeRoot k 2 (2 * j + 1))

/-- Inverse levels 2 and 1 on the four samples of node (1, j). -/
def inverseTopNode (k : Roots K) (j : Nat) : X4 K → X4 K :=
  inverseNode (exactArith K) (treeRoot k 1 j) (treeRoot k 2 (2 * j)) (treeRoot k 2 (2 * j + 1))

theorem toGauss_treeRoot_two_even (k : Roots K) {j : Nat} (hj : j % 2 = 0) :
    (treeRoot k 2 j).toGauss = (k.tw 2 j).root.toGauss := by rw [treeRoot_even k le_rfl hj]

theorem toGauss_treeRoot_two_odd (k : Roots K) {j : Nat} (hj : j % 2 = 1) :
    (treeRoot k 2 j).toGauss = imagUnit K * (k.tw 2 (j - 1)).root.toGauss := by
  rw [treeRoot_odd k le_rfl hj, toGauss_muli]

theorem forward8_0_eq (k : Roots K) (a b : X4 K) :
    forward8_0 (exactArith K) k.sqrth (k.tw 2 0) (k.tw 2 2) (X8.ofHalves a b) =
      X8.ofHalves (forwardTopNode k 0 (pairFirst (forwardPair (exactArith K) (treeRoot k 0 0)) a b))
        (forwardTopNode k 1 (pairLast (forwardPair (exactArith K) (treeRoot k 0 0)) a b)) := by
  apply X8.eq_of_halves <;> apply X4.eq_of_toGauss <;>
    simp [forward8_0, X8.ofHalves, forwardTopNode, forwardNode, pairNear, pairFar, pairFirst, pairLast,
      forwardPair, toGauss_treeRoot_zero, toGauss_treeRoot_one_zero, toGauss_treeRoot_one_one,
      toGauss_treeRoot_two_even, toGauss_treeRoot_two_odd] <;> ring

theorem backward8_0_eq (k : Roots K) (a b : X4 K) :
    backward8_0 (exactArith K) k.sqrth (k.tw 2 0) (k.tw 2 2) (X8.ofHalves a b) =
      X8.ofHalves
        (pairFirst (inversePair (exactArith K) (treeRoot k 0 0)) (inverseTopNode k 0 a) (inverseTopNode k 1 b))
        (pairLast (inversePair (exactArith K) (treeRoot k 0 0)) (inverseTopNode k 0 a)
          (inverseTopNode k 1 b)) := by
  apply X8.eq_of_halves <;> apply X4.eq_of_toGauss <;>
    simp [backward8_0, X8.ofHalves, inverseTopNode, inverseNode, pairNear, pairFar, pairFirst, pairLast,
      inversePair, toGauss_treeRoot_zero, toGauss_treeRoot_one_zero, toGauss_treeRoot_one_one,
      toGauss_treeRoot_two_even, toGauss_treeRoot_two_odd] <;> ring

end Butterflies

end Sys2Proof.Machine

/-!
PROOF. The stages of the four transforms are their levels in exact arithmetic (41_butterflies.md R131, R145).
-/

namespace Sys2Proof.Machine

section Stages

variable {K : Type} [CommRing K] (k : Roots K) {l s : Nat} (u : Array (Cx K))

/-- N/2^s is four quarters where two levels from s on are left. -/
theorem quarter_of_level (h : s + 2 ≤ l) : nLen l / 2 ^ s = 4 * 2 ^ (l - s - 2) := by
  rw [nLen, Nat.pow_div (by omega) (by decide), show 4 = 2 ^ 2 from rfl, ← pow_add]
  congr 1
  omega

theorem nLen_eq_eighths (h : 3 ≤ l) : nLen l = 8 * 2 ^ (l - 3) := by
  rw [nLen, show 8 = 2 ^ 3 from rfl, ← pow_add, Nat.add_sub_cancel' h]

/-! ### One stage -/

theorem forwardStage_eqOn (hs : 2 ≤ s) (hsl : s + 2 ≤ l) :
    Set.EqOn (sampleAt (exactArith K) (forwardStage (exactArith K) k (nLen l) u s))
      (forwardThrough (treeRoot k) (nLen l) [s, s + 1] (sampleAt (exactArith K) u)) (Set.Iio (nLen l)) := by
  intro p hp
  have hn := quarter_of_level hsl
  rw [forwardStage, sampleAt_tabulate, if_pos (Set.mem_Iio.mp hp)]
  refine stage4At_eq hn (by positivity) (fun j c hj hc => ?_) (fun j c hj hc => ?_) p <;>
    refine Eq.trans ?_ (quad_forwardLevels (exactArith K) (treeRoot k) _ hn hc rfl).symm
  · rw [forward4e_eq, treeRoot_even k hs hj, treeRoot_even k (j := 2 * j) (by omega) (by omega),
      treeRoot_odd k (j := 2 * j + 1) (by omega) (by omega)]
    rfl
  · rw [forward4o_eq, treeRoot_odd k hs hj, treeRoot_even k (j := 2 * j) (by omega) (by omega),
      treeRoot_odd k (j := 2 * j + 1) (by omega) (by omega), w122i, show 2 * (j - 1) + 2 = 2 * j by omega]
    rfl

theorem backwardStage_eqOn (hs : 2 ≤ s) (hsl : s + 2 ≤ l) :
    Set.EqOn (sampleAt (exactArith K) (backwardStage (exactArith K) k (nLen l) u s))
      (inverseThrough (treeRoot k) (nLen l) [s + 1, s] (sampleAt (exactArith K) u)) (Set.Iio (nLen l)) := by
  intro p hp
  have hn := quarter_of_level hsl
  rw [backwardStage, sampleAt_tabulate, if_pos (Set.mem_Iio.mp hp)]
  refine stage4At_eq hn (by positivity) (fun j c hj hc => ?_) (fun j c hj hc => ?_) p <;>
    refine Eq.trans ?_ (quad_inverseLevels (exactArith K) (treeRoot k) _ hn hc rfl).symm
  · rw [backward4e_eq, treeRoot_even k hs hj, treeRoot_even k (j := 2 * j) (by omega) (by omega),
      treeRoot_odd k (j := 2 * j + 1) (by omega) (by omega)]
    rfl
  · rw [backward4o_eq, treeRoot_odd k hs hj, treeRoot_even k (j := 2 * j) (by omega) (by omega),
      treeRoot_odd k (j := 2 * j + 1) (by omega) (by omega), w122i, show 2 * (j - 1) + 2 = 2 * j by omega]
    rfl

/-! ### The top stage -/

/-- How many levels the top stage takes: the parity of L_S decides (41_butterflies.md R145). -/
def topCount (ls : Nat) : Nat := if ls % 2 = 0 then 2 else 3

theorem forwardTop_eqOn (ls : Nat) (hl : 3 ≤ l) :
    Set.EqOn (sampleAt (exactArith K) (forwardTop (exactArith K) k (nLen l) ls u))
      (forwardThrough (treeRoot k) (nLen l) (List.range (topCount ls)) (sampleAt (exactArith K) u))
      (Set.Iio (nLen l)) := by
  intro p hp
  rw [forwardTop, topCount]
  split
  · have hn := quarter_of_level (l := l) (s := 0) (by omega)
    rw [sampleAt_tabulate, if_pos (Set.mem_Iio.mp hp)]
    refine top4At_eq (by simpa using hn) hp fun c hc => ?_
    exact (forward4_0_eq k _).trans (quad_forwardLevels _ (treeRoot k) (j := 0) _ hn hc (by omega)).symm
  · have hn := nLen_eq_eighths hl
    have hn1 : nLen l / 2 ^ 1 = 4 * 2 ^ (l - 3) := by omega
    rw [sampleAt_tabulate, if_pos (Set.mem_Iio.mp hp)]
    refine top8At_eq hn hp fun c hc => ?_
    refine (forward8_0_eq k _ _).trans (congrArg₂ X8.ofHalves ?_ ?_)
    · refine Eq.trans ?_ (quad_forwardLevels _ (treeRoot k) (j := 0) _ hn1 hc (by omega)).symm
      exact congrArg (forwardTopNode k 0)
        (quad_pairLevel_first (f := fun j => forwardPair (exactArith K) (treeRoot k 0 j)) _ hn hc).symm
    · refine Eq.trans ?_ (quad_forwardLevels _ (treeRoot k) (j := 1) _ hn1 hc (by omega)).symm
      exact congrArg (forwardTopNode k 1)
        (quad_pairLevel_last (f := fun j => forwardPair (exactArith K) (treeRoot k 0 j)) _ hn hc).symm

theorem backwardTop_eqOn (ls : Nat) (hl : 3 ≤ l) :
    Set.EqOn (sampleAt (exactArith K) (backwardTop (exactArith K) k (nLen l) ls u))
      (inverseThrough (treeRoot k) (nLen l) (List.range (topCount ls)).reverse (sampleAt (exactArith K) u))
      (Set.Iio (nLen l)) := by
  intro p hp
  rw [backwardTop, topCount]
  split
  · have hn := quarter_of_level (l := l) (s := 0) (by omega)
    rw [sampleAt_tabulate, if_pos (Set.mem_Iio.mp hp)]
    refine top4At_eq (by simpa using hn) hp fun c hc => ?_
    exact (backward4_0_eq k _).trans (quad_inverseLevels _ (treeRoot k) (j := 0) _ hn hc (by omega)).symm
  · have hn := nLen_eq_eighths hl
    have hn1 : nLen l / 2 ^ 1 = 4 * 2 ^ (l - 3) := by omega
    rw [sampleAt_tabulate, if_pos (Set.mem_Iio.mp hp)]
    refine top8At_eq hn hp fun c hc => ?_
    have hfirst := quad_inverseLevels (exactArith K) (treeRoot k) (j := 0) (sampleAt (exactArith K) u) hn1 hc
      (i := c) (by omega)
    have hlast := quad_inverseLevels (exactArith K) (treeRoot k) (j := 1) (sampleAt (exactArith K) u) hn1 hc
      (i := c + 4 * 2 ^ (l - 3)) (by omega)
    refine (backward8_0_eq k _ _).trans (congrArg₂ X8.ofHalves ?_ ?_)
    · refine Eq.trans (congrArg₂ _ hfirst.symm hlast.symm) ?_
      exact (quad_pairLevel_first (f := fun j => inversePair (exactArith K) (treeRoot k 0 j)) _ hn hc).symm
    · refine Eq.trans (congrArg₂ _ hfirst.symm hlast.symm) ?_
      exact (quad_pairLevel_last (f := fun j => inversePair (exactArith K) (treeRoot k 0 j)) _ hn hc).symm

/-! ### Levels in a row -/

theorem forwardThrough_append (root : Nat → Nat → Cx K) (n : Nat) (ss ts : List Nat) (x : Nat → Cx K) :
    forwardThrough root n (ss ++ ts) x = forwardThrough root n ts (forwardThrough root n ss x) :=
  List.foldl_append

theorem inverseThrough_append (root : Nat → Nat → Cx K) (n : Nat) (ss ts : List Nat) (x : Nat → Cx K) :
    inverseThrough root n (ss ++ ts) x = inverseThrough root n ts (inverseThrough root n ss x) :=
  List.foldl_append

/-- The levels 0 … m − 1 in a row. -/
theorem forwardLevels_eq_forwardThrough (root : Nat → Nat → Cx K) (n m : Nat) (x : Nat → Cx K) :
    forwardLevels root n m x = forwardThrough root n (List.range m) x := by
  induction m with
  | zero => rfl
  | succ m ih => rw [List.range_succ, forwardThrough_append, ← ih]; rfl

theorem forwardThrough_eqOn (root : Nat → Nat → Cx K) (ss : List Nat) {x y : Nat → Cx K}
    (h : Set.EqOn x y (Set.Iio (nLen l))) :
    Set.EqOn (forwardThrough root (nLen l) ss x) (forwardThrough root (nLen l) ss y) (Set.Iio (nLen l)) := by
  induction ss generalizing x y with
  | nil => exact h
  | cons s ss ih => exact ih (pairLevel_eqOn (f := fun j => forwardPair (exactArith K) (root s j)) h)

theorem inverseThrough_eqOn (root : Nat → Nat → Cx K) (ss : List Nat) {x y : Nat → Cx K}
    (h : Set.EqOn x y (Set.Iio (nLen l))) :
    Set.EqOn (inverseThrough root (nLen l) ss x) (inverseThrough root (nLen l) ss y) (Set.Iio (nLen l)) := by
  induction ss generalizing x y with
  | nil => exact h
  | cons s ss ih => exact ih (pairLevel_eqOn (f := fun j => inversePair (exactArith K) (root s j)) h)

/-- The two levels of each radix-4 stage of a list. -/
def stageLevels (ss : List Nat) : List Nat := ss.flatMap fun s => [s, s + 1]

theorem foldl_forwardStage_eqOn {ss : List Nat} (hss : ∀ s ∈ ss, 2 ≤ s ∧ s + 2 ≤ l) (u : Array (Cx K)) :
    Set.EqOn (sampleAt (exactArith K) (ss.foldl (forwardStage (exactArith K) k (nLen l)) u))
      (forwardThrough (treeRoot k) (nLen l) (stageLevels ss) (sampleAt (exactArith K) u))
      (Set.Iio (nLen l)) := by
  induction ss generalizing u with
  | nil => exact Set.eqOn_refl _ _
  | cons s ss ih =>
    obtain ⟨⟨hs, hsl⟩, htail⟩ := List.forall_mem_cons.mp hss
    rw [stageLevels, List.flatMap_cons, forwardThrough_append]
    exact (ih htail _).trans (forwardThrough_eqOn _ _ (forwardStage_eqOn k u hs hsl))

theorem foldl_backwardStage_eqOn {ss : List Nat} (hss : ∀ s ∈ ss, 2 ≤ s ∧ s + 2 ≤ l) (u : Array (Cx K)) :
    Set.EqOn (sampleAt (exactArith K) (ss.reverse.foldl (backwardStage (exactArith K) k (nLen l)) u))
      (inverseThrough (treeRoot k) (nLen l) (stageLevels ss).reverse (sampleAt (exactArith K) u))
      (Set.Iio (nLen l)) := by
  induction ss generalizing u with
  | nil => exact Set.eqOn_refl _ _
  | cons s ss ih =>
    obtain ⟨⟨hs, hsl⟩, htail⟩ := List.forall_mem_cons.mp hss
    rw [stageLevels, List.flatMap_cons, List.reverse_append, inverseThrough_append, List.reverse_cons,
      List.foldl_append]
    exact (backwardStage_eqOn k _ hs hsl).trans (inverseThrough_eqOn _ _ (ih htail u))

/-! ### Which levels the transforms' stages take -/

theorem stageLevels_range (a m : Nat) :
    stageLevels ((List.range m).map fun i => a + 2 * i) = List.range' a (2 * m) := by
  induction m with
  | zero => rfl
  | succ m ih =>
    rw [List.range_succ, List.map_append, stageLevels, List.flatMap_append, ← stageLevels, ih, Nat.mul_succ,
      ← List.range'_append_1]
    rfl

theorem lS_le (l : Nat) : lS l ≤ l := Nat.sub_le _ _

/-- S is at least 16 (41_butterflies.md R145). -/
theorem four_le_lS (hl : 10 ≤ l) : 4 ≤ lS l := by
  unfold lS nioLog
  split_ifs <;> omega

theorem sub_lS (hl : 10 ≤ l) : l - lS l = nioLog l := by
  unfold lS nioLog
  split_ifs <;> omega

theorem even_nioLog (l : Nat) : nioLog l % 2 = 0 := by
  unfold nioLog
  split_ifs <;> rfl

theorem range_lS (hl : 10 ≤ l) :
    List.range (lS l) = List.range (topCount (lS l)) ++ stageLevels (outerLevels (lS l)) := by
  have := four_le_lS hl
  simp only [outerLevels, topCount]
  split <;> rw [stageLevels_range, List.range_eq_range', List.range_eq_range', List.range'_append_1] <;>
    congr 1 <;> omega

theorem innerLevelList_eq (hl : 10 ≤ l) : innerLevelList l = stageLevels (innerLevels l (lS l)) := by
  have := even_nioLog l
  rw [innerLevelList, innerLevels, stageLevels_range, sub_lS hl, ← List.range'_eq_map_range]
  congr 1
  omega

theorem of_mem_outerLevels (hl : 10 ≤ l) : ∀ s ∈ outerLevels (lS l), 2 ≤ s ∧ s + 2 ≤ l := by
  have := lS_le l
  simp only [outerLevels, List.forall_mem_map, List.mem_range]
  split <;> omega

theorem of_mem_innerLevels (hl : 10 ≤ l) : ∀ s ∈ innerLevels l (lS l), 2 ≤ s ∧ s + 2 ≤ l := by
  have := four_le_lS hl
  simp only [innerLevels, List.forall_mem_map, List.mem_range]
  omega

/-! ### The four transforms -/

theorem forwardOuter_eqOn (hl : 10 ≤ l) :
    Set.EqOn (sampleAt (exactArith K) (forwardOuter (exactArith K) k l (lS l) u))
      (forwardThrough (treeRoot k) (nLen l) (List.range (lS l)) (sampleAt (exactArith K) u))
      (Set.Iio (nLen l)) := by
  rw [range_lS hl, forwardThrough_append]
  exact (foldl_forwardStage_eqOn k (of_mem_outerLevels hl) _).trans
    (forwardThrough_eqOn _ _ (forwardTop_eqOn k u _ (by omega)))

theorem inverseOuter_eqOn (hl : 10 ≤ l) :
    Set.EqOn (sampleAt (exactArith K) (inverseOuter (exactArith K) k l (lS l) u))
      (inverseThrough (treeRoot k) (nLen l) (List.range (lS l)).reverse (sampleAt (exactArith K) u))
      (Set.Iio (nLen l)) := by
  rw [range_lS hl, List.reverse_append, inverseThrough_append]
  exact (backwardTop_eqOn k _ _ (by omega)).trans
    (inverseThrough_eqOn _ _ (foldl_backwardStage_eqOn k (of_mem_outerLevels hl) u))

theorem forwardInner_eqOn (hl : 10 ≤ l) :
    Set.EqOn (sampleAt (exactArith K) (forwardInner (exactArith K) k l (lS l) u))
      (forwardThrough (treeRoot k) (nLen l) (innerLevelList l) (sampleAt (exactArith K) u))
      (Set.Iio (nLen l)) := by
  rw [innerLevelList_eq hl]
  exact foldl_forwardStage_eqOn k (of_mem_innerLevels hl) u

theorem inverseInner_eqOn (hl : 10 ≤ l) :
    Set.EqOn (sampleAt (exactArith K) (inverseInner (exactArith K) k l (lS l) u))
      (inverseThrough (treeRoot k) (nLen l) (innerLevelList l).reverse (sampleAt (exactArith K) u))
      (Set.Iio (nLen l)) := by
  rw [innerLevelList_eq hl]
  exact foldl_backwardStage_eqOn k (of_mem_innerLevels hl) u

end Stages

/-- Settles O56: each stage is its two or three levels, and a transform's stages cover its levels in order. -/
theorem outerTransformIsItsLevels : Obligations.OuterTransformIsItsLevels := by
  intro K _ k l p u hl _ hp
  rw [forwardLevels_eq_forwardThrough]
  exact ⟨forwardOuter_eqOn k u hl hp, inverseOuter_eqOn k u hl hp, forwardInner_eqOn k u hl hp,
    inverseInner_eqOn k u hl hp⟩

end Sys2Proof.Machine

/-!
PROOF. The pointwise stage gives the products of the polynomials' values (41_butterflies.md R149, R150).
-/

namespace Sys2Proof.Machine

/-- Settles O59: the spectra r, h, s and k are read off the pairs, and what is left is an identity of K[i]. -/
theorem pointwiseProducts : Obligations.PointwiseProducts := by
  intro K _ half rho r h s k h2
  simp only [pointwiseSquare, pointwiseMul, realSpectrum_of_pair h2, imagSpectrum_of_pair h2]
  exact ⟨Cx.toGauss_injective (by simp), Cx.toGauss_injective (by simp)⟩

end Sys2Proof.Machine

/-!
PROOF. The gains of the round trips: each inverse level undoes its forward level up to a factor 2
(41_butterflies.md R128, R132).
-/

namespace Sys2Proof.Machine

section RoundTrip

open scoped QuadraticAlgebra

variable {K : Type} [CommRing K]

/-! ### Two levels that undo each other, and maps that pass through a level -/

theorem pairLevel_pairLevel {α : Type} {f g : Nat → Butterfly α} {φ : Cx α → Cx α} {n s : Nat}
    (hh : 0 < n / 2 ^ s / 2) (hgf : ∀ j a b, g j (f j a b).1 (f j a b).2 = (φ a, φ b)) (x : Nat → Cx α)
    (p : Nat) : pairLevel g n s (pairLevel f n s x) p = φ (x p) := by
  obtain ⟨j, c, i, hc, hi, rfl | rfl⟩ := pair_position hh p
  · rw [pairLevel_fst _ rfl hc hi, pairLevel_fst x rfl hc hi, pairLevel_snd x rfl hc hi, hgf]
  · rw [pairLevel_snd _ rfl hc hi, pairLevel_fst x rfl hc hi, pairLevel_snd x rfl hc hi, hgf]

theorem pairLevel_comp {α : Type} {f : Nat → Butterfly α} {φ : Cx α → Cx α} (n s : Nat)
    (hf : ∀ j a b, f j (φ a) (φ b) = (φ (f j a b).1, φ (f j a b).2)) (x : Nat → Cx α) :
    pairLevel f n s (fun p => φ (x p)) = fun p => φ (pairLevel f n s x p) := by
  funext p
  simp only [pairLevel, hf]
  split <;> rfl

/-! ### Scaling -/

theorem cxScale_one (z : Cx K) : cxScale (exactArith K) 1 z = z :=
  Cx.toGauss_injective (by rw [toGauss_scale, map_one, one_mul])

theorem cxScale_cxScale (s t : K) (z : Cx K) :
    cxScale (exactArith K) s (cxScale (exactArith K) t z) = cxScale (exactArith K) (s * t) z :=
  Cx.toGauss_injective (by rw [toGauss_scale, toGauss_scale, toGauss_scale, map_mul, mul_assoc])

theorem inversePair_scale (d : Cx K) (s : K) (a b : Cx K) :
    inversePair (exactArith K) d (cxScale (exactArith K) s a) (cxScale (exactArith K) s b) =
      (cxScale (exactArith K) s (inversePair (exactArith K) d a b).1,
        cxScale (exactArith K) s (inversePair (exactArith K) d a b).2) := by
  refine Prod.ext (Cx.toGauss_injective ?_) (Cx.toGauss_injective ?_) <;> simp [inversePair] <;> ring

/-- Inverse levels pass a factor through. -/
theorem inverseThrough_scale (root : Nat → Nat → Cx K) (n : Nat) (ss : List Nat) (s : K) (x : Nat → Cx K) :
    inverseThrough root n ss (fun p => cxScale (exactArith K) s (x p)) =
      fun p => cxScale (exactArith K) s (inverseThrough root n ss x p) := by
  induction ss generalizing x with
  | nil => rfl
  | cons t ss ih =>
    refine Eq.trans (congrArg (inverseThrough root n ss) ?_) (ih _)
    exact pairLevel_comp n t (fun j => inversePair_scale (root t j) s) x

/-! ### The roots have norm 1 -/

theorem star_mul_toGauss {z : Cx K} (h : z.re ^ 2 + z.im ^ 2 = 1) : star z.toGauss * z.toGauss = 1 := by
  ext
  · simp only [Cx.toGauss, QuadraticAlgebra.re_mul, QuadraticAlgebra.re_star, QuadraticAlgebra.im_star,
      QuadraticAlgebra.re_one]
    linear_combination h
  · simp only [Cx.toGauss, QuadraticAlgebra.im_mul, QuadraticAlgebra.re_star, QuadraticAlgebra.im_star,
      QuadraticAlgebra.im_one]
    ring

theorem star_mul_twRoot {k : Roots K} (hk : ExactRoots k) {s j : Nat} (hs : 1 ≤ s) (hj : j % 2 = 0) :
    star (k.tw s j).root.toGauss * (k.tw s j).root.toGauss = 1 := by
  refine star_mul_toGauss ?_
  rw [Tw.root]
  linear_combination hk.unit s j hs hj

/-- Every root of the tree times its conjugate is 1: i and ±√½ ± i·√½ at the two top levels, and a stored
twiddle or i times one below them. -/
theorem star_mul_treeRoot {k : Roots K} (hk : ExactRoots k) (s j : Nat) :
    star (treeRoot k s j).toGauss * (treeRoot k s j).toGauss = 1 := by
  match s with
  | 0 => exact star_mul_toGauss (by rw [treeRoot]; ring)
  | 1 =>
    refine star_mul_toGauss ?_
    rw [treeRoot]
    split <;> linear_combination hk.half
  | s + 2 =>
    have hs : 2 ≤ s + 2 := Nat.le_add_left 2 s
    obtain hj | hj := Nat.mod_two_eq_zero_or_one j
    · rw [treeRoot_even k hs hj]
      exact star_mul_twRoot hk (by omega) hj
    · have hnorm := star_mul_twRoot hk (s := s + 2) (j := j - 1) (by omega) (by omega)
      rw [treeRoot_odd k hs hj, toGauss_muli, star_mul', star_imagUnit]
      linear_combination hnorm -
        star (k.tw (s + 2) (j - 1)).root.toGauss * (k.tw (s + 2) (j - 1)).root.toGauss *
          imagUnit_mul_self (K := K)

theorem inversePair_forwardPair {d : Cx K} (hd : star d.toGauss * d.toGauss = 1) (a b : Cx K) :
    inversePair (exactArith K) d (forwardPair (exactArith K) d a b).1 (forwardPair (exactArith K) d a b).2 =
      (cxScale (exactArith K) 2 a, cxScale (exactArith K) 2 b) := by
  refine Prod.ext (Cx.toGauss_injective ?_) (Cx.toGauss_injective ?_)
  · simp only [inversePair, forwardPair, toGauss_add, toGauss_sub, toGauss_mul, toGauss_scale, map_ofNat]
    ring
  · simp only [inversePair, forwardPair, toGauss_add, toGauss_sub, toGauss_mul, toGauss_conj, toGauss_scale,
      map_ofNat]
    linear_combination 2 * b.toGauss * hd

/-! ### The round trips -/

/-- An inverse level after its forward level multiplies every sample by 2 (41_butterflies.md R128). -/
theorem inverseLevelAt_forwardLevelAt {root : Nat → Cx K}
    (hroot : ∀ j, star (root j).toGauss * (root j).toGauss = 1) {l s : Nat} (hs : s < l) (x : Nat → Cx K) :
    inverseLevelAt (exactArith K) root (nLen l) s (forwardLevelAt (exactArith K) root (nLen l) s x) =
      fun p => cxScale (exactArith K) 2 (x p) := by
  have hhalf : 0 < nLen l / 2 ^ s / 2 := by
    rw [Nat.div_div_eq_div_mul, ← pow_succ, nLen, Nat.pow_div hs (by decide)]
    positivity
  exact funext (pairLevel_pairLevel (g := fun j => inversePair (exactArith K) (root j))
    (f := fun j => forwardPair (exactArith K) (root j)) hhalf (fun j => inversePair_forwardPair (hroot j)) x)

/-- Levels undone in the reverse order multiply every sample by 2 each. -/
theorem inverseThrough_forwardThrough {k : Roots K} (hk : ExactRoots k) {l : Nat} (ss : List Nat)
    (hss : ∀ s ∈ ss, s < l) (x : Nat → Cx K) :
    inverseThrough (treeRoot k) (nLen l) ss.reverse (forwardThrough (treeRoot k) (nLen l) ss x) =
      fun p => cxScale (exactArith K) (2 ^ ss.length) (x p) := by
  induction ss generalizing x with
  | nil => exact funext fun p => by rw [List.length_nil, pow_zero, cxScale_one]; rfl
  | cons s ss ih =>
    obtain ⟨hs, htail⟩ := List.forall_mem_cons.mp hss
    have hinner := ih htail (forwardLevelAt (exactArith K) (treeRoot k s) (nLen l) s x)
    rw [List.reverse_cons, inverseThrough_append]
    calc inverseThrough (treeRoot k) (nLen l) [s] _
        = fun p => cxScale (exactArith K) (2 ^ ss.length) (inverseThrough (treeRoot k) (nLen l) [s]
            (forwardLevelAt (exactArith K) (treeRoot k s) (nLen l) s x) p) := by
          rw [← inverseThrough_scale, ← hinner]; rfl
      _ = fun p => cxScale (exactArith K) (2 ^ ss.length) (cxScale (exactArith K) 2 (x p)) :=
          congrArg (fun y p => cxScale (exactArith K) (2 ^ ss.length) (y p))
            (inverseLevelAt_forwardLevelAt (star_mul_treeRoot hk s) hs x)
      _ = _ := by simp only [cxScale_cxScale, List.length_cons, pow_succ]

theorem rowsOf_eq {l : Nat} (hl : 10 ≤ l) : rowsOf l = 2 ^ lS l := by
  have := four_le_lS hl
  rw [rowsOf, nLen, nio, Nat.pow_div (by rw [lS] at this; omega) (by decide), lS]

theorem nio_mul_rowsOf {l : Nat} (hl : 10 ≤ l) : nio l * rowsOf l = nLen l := by
  rw [rowsOf_eq hl, nio, ← sub_lS hl, ← pow_add, Nat.sub_add_cancel (lS_le l), nLen]

section
variable {k : Roots K} (hk : ExactRoots k) {l : Nat} (hl : 10 ≤ l) (u : Array (Cx K))
include hk hl

/-- The outer round trip multiplies by S. -/
theorem outerRoundTrip_eqOn :
    Set.EqOn
      (sampleAt (exactArith K)
        (inverseOuter (exactArith K) k l (lS l) (forwardOuter (exactArith K) k l (lS l) u)))
      (fun p => cxScale (exactArith K) (rowsOf l : K) (sampleAt (exactArith K) u p)) (Set.Iio (nLen l)) := by
  have hlevels : ∀ s ∈ List.range (lS l), s < l := fun s hs => (List.mem_range.mp hs).trans_le (lS_le l)
  have htrip := inverseThrough_forwardThrough hk _ hlevels (sampleAt (exactArith K) u)
  rw [List.length_range] at htrip
  rw [rowsOf_eq hl, Nat.cast_pow, Nat.cast_ofNat, ← htrip]
  exact (inverseOuter_eqOn k _ hl).trans (inverseThrough_eqOn _ _ (forwardOuter_eqOn k u hl))

/-- The inner round trip multiplies by n_io. -/
theorem innerRoundTrip_eqOn :
    Set.EqOn
      (sampleAt (exactArith K)
        (inverseInner (exactArith K) k l (lS l) (forwardInner (exactArith K) k l (lS l) u)))
      (fun p => cxScale (exactArith K) (nio l : K) (sampleAt (exactArith K) u p)) (Set.Iio (nLen l)) := by
  have hlevels : ∀ s ∈ innerLevelList l, s < l := by
    simp only [innerLevelList, List.forall_mem_map, List.mem_range]
    omega
  have htrip := inverseThrough_forwardThrough hk _ hlevels (sampleAt (exactArith K) u)
  rw [innerLevelList, List.length_map, List.length_range, ← innerLevelList, sub_lS hl] at htrip
  rw [nio, Nat.cast_pow, Nat.cast_ofNat, ← htrip]
  exact (inverseInner_eqOn k _ hl).trans (inverseThrough_eqOn _ _ (forwardInner_eqOn k u hl))

/-- Both round trips, the inner one inside the outer one, multiply by N: the factor of the inner one passes
through the inverse outer levels. -/
theorem fullRoundTrip_eqOn :
    Set.EqOn
      (sampleAt (exactArith K) (inverseOuter (exactArith K) k l (lS l) (inverseInner (exactArith K) k l (lS l)
        (forwardInner (exactArith K) k l (lS l) (forwardOuter (exactArith K) k l (lS l) u)))))
      (fun p => cxScale (exactArith K) (nLen l : K) (sampleAt (exactArith K) u p)) (Set.Iio (nLen l)) := by
  intro p hp
  set v := forwardOuter (exactArith K) k l (lS l) u
  calc sampleAt (exactArith K) (inverseOuter (exactArith K) k l (lS l) (inverseInner (exactArith K) k l (lS l)
        (forwardInner (exactArith K) k l (lS l) v))) p
      = inverseThrough (treeRoot k) (nLen l) (List.range (lS l)).reverse
          (fun p => cxScale (exactArith K) (nio l : K) (sampleAt (exactArith K) v p)) p :=
        (inverseOuter_eqOn k _ hl).trans (inverseThrough_eqOn _ _ (innerRoundTrip_eqOn hk hl v)) hp
    _ = cxScale (exactArith K) (nio l : K)
          (sampleAt (exactArith K) (inverseOuter (exactArith K) k l (lS l) v) p) := by
        rw [inverseThrough_scale, inverseOuter_eqOn k v hl hp]
    _ = cxScale (exactArith K) (nLen l : K) (sampleAt (exactArith K) u p) := by
        rw [outerRoundTrip_eqOn hk hl u hp, cxScale_cxScale, ← Nat.cast_mul, nio_mul_rowsOf hl]

end

end RoundTrip

/-- Settles O57, by the gains of the outer, the inner and the full round trip. -/
theorem roundTripGains : Obligations.RoundTripGains := by
  intro K _ k l p u hk hl _ hp
  exact ⟨outerRoundTrip_eqOn hk hl u hp, innerRoundTrip_eqOn hk hl u hp, fullRoundTrip_eqOn hk hl u hp⟩

end Sys2Proof.Machine

/-!
PROOF. The forward levels evaluate the polynomial: what a node of level s holds, evaluated at a z whose power
is the node's root, is the whole polynomial at z (41_butterflies.md R126, R127, R129).
-/

namespace Sys2Proof.Machine

section Evaluation

variable {K : Type} [CommRing K] {root : Nat → Nat → Cx K} {m s j : Nat}

theorem toGauss_zero_sub (z : Cx K) : (cxSub (exactArith K) ⟨0, 0⟩ z).toGauss = -z.toGauss :=
  zero_sub z.toGauss

theorem toGauss_pow (z : Cx K) (n : Nat) : (cxPow z n).toGauss = z.toGauss ^ n := by
  induction n with
  | zero => rfl
  | succ n ih => rw [cxPow, toGauss_mul, ih, pow_succ']

theorem toGauss_eval (u : Nat → Cx K) (z : Cx K) (n : Nat) :
    (cxEval u z n).toGauss = ∑ i ∈ Finset.range n, (u i).toGauss * z.toGauss ^ i := by
  induction n with
  | zero => rfl
  | succ n ih => rw [cxEval, toGauss_add, toGauss_mul, toGauss_pow, ih, Finset.sum_range_succ]

/-- γ_{s,j}: node (s, j) stands for a residue modulo x^(N/2^s) − γ_{s,j} (41_butterflies.md R126). -/
def nodeRoot (root : Nat → Nat → Cx K) : (s j : Nat) → Cx K
  | 0, _ => ⟨-1, 0⟩
  | s + 1, j => leafRoot root (s + 1) j

/-- A child's γ is its parent's root, or its negative. -/
theorem toGauss_nodeRoot_succ (root : Nat → Nat → Cx K) (s j : Nat) :
    (nodeRoot root (s + 1) j).toGauss =
      if j % 2 = 0 then (root s (j / 2)).toGauss else -(root s (j / 2)).toGauss := by
  rw [nodeRoot, leafRoot, Nat.add_sub_cancel]
  split
  · rfl
  · exact toGauss_zero_sub _

/-- δ_{s,j} is a square root of γ_{s,j} (41_butterflies.md R126). -/
theorem toGauss_root_sq (h : RootTree root m) (hs : s < m) (hj : j < 2 ^ s) :
    (root s j).toGauss ^ 2 = (nodeRoot root s j).toGauss := by
  rw [pow_two, ← toGauss_mul]
  match s with
  | 0 =>
    obtain rfl : j = 0 := by simpa using hj
    exact congrArg Cx.toGauss h.top
  | s + 1 =>
    rw [toGauss_nodeRoot_succ]
    split
    · next hpar =>
      obtain ⟨i, rfl⟩ : ∃ i, j = 2 * i := ⟨j / 2, by omega⟩
      rw [h.left s i hs, Nat.mul_div_cancel_left _ (by decide)]
    · next hpar =>
      obtain ⟨i, rfl⟩ : ∃ i, j = 2 * i + 1 := ⟨j / 2, by omega⟩
      rw [h.right s i hs, toGauss_zero_sub, show (2 * i + 1) / 2 = i by omega]

/-- What a level leaves in a child: one half of its parent's samples and γ times the other. -/
theorem toGauss_forwardLevelAt {n h : Nat} (hh : n / 2 ^ s / 2 = h) (x : Nat → Cx K) (j : Nat) {c : Nat}
    (hc : c < h) :
    (forwardLevelAt (exactArith K) (root s) n s x (j * h + c)).toGauss =
      (x (j / 2 * (2 * h) + c)).toGauss +
        (nodeRoot root (s + 1) j).toGauss * (x (j / 2 * (2 * h) + (h + c))).toGauss := by
  rw [toGauss_nodeRoot_succ, forwardLevelAt_eq_pairLevel,
    show j / 2 * (2 * h) + (h + c) = j / 2 * (2 * h) + c + h by ring]
  split
  · next hpar =>
    have hpos : j * h + c = j / 2 * (2 * h) + c := by
      rw [← Nat.mul_assoc, Nat.div_mul_cancel (Nat.dvd_of_mod_eq_zero hpar)]
    rw [hpos, pairLevel_fst x hh hc rfl, forwardPair, toGauss_add, toGauss_mul]
  · next hpar =>
    have hpos : j * h + c = j / 2 * (2 * h) + c + h := by
      conv_lhs => rw [show j = j / 2 * 2 + 1 by omega]
      ring
    rw [hpos, pairLevel_snd x hh hc rfl, forwardPair, toGauss_sub, toGauss_mul, neg_mul, sub_eq_add_neg]

/-- At a z with z^(N/2^s) = γ_{s,j}, the samples of node (s, j) after s levels evaluate to the input's
polynomial at z. -/
theorem sum_forwardLevels (h : RootTree root m) (u : Nat → Cx K) (hs : s ≤ m) (hj : j < 2 ^ s) {z : Gauss K}
    (hz : z ^ 2 ^ (m - s) = (nodeRoot root s j).toGauss) :
    ∑ i ∈ Finset.range (2 ^ (m - s)),
        (forwardLevels root (2 ^ m) s u (j * 2 ^ (m - s) + i)).toGauss * z ^ i =
      ∑ i ∈ Finset.range (2 ^ m), (u i).toGauss * z ^ i := by
  induction s generalizing j with
  | zero =>
    obtain rfl : j = 0 := by simpa using hj
    simp only [forwardLevels, Nat.sub_zero, Nat.zero_mul, Nat.zero_add]
  | succ s ih =>
    have hwidth : 2 ^ (m - s) = 2 * 2 ^ (m - (s + 1)) := by
      rw [← pow_succ', show m - (s + 1) + 1 = m - s by omega]
    have hhalf : 2 ^ m / 2 ^ s / 2 = 2 ^ (m - (s + 1)) := by
      rw [Nat.pow_div (by omega) (by decide), hwidth, Nat.mul_div_cancel_left _ (by decide)]
    have hparent : j / 2 < 2 ^ s := Nat.div_lt_of_lt_mul (by rwa [← pow_succ'])
    have hzparent : z ^ 2 ^ (m - s) = (nodeRoot root s (j / 2)).toGauss := by
      rw [← toGauss_root_sq h hs hparent, hwidth, mul_comm, pow_mul, hz, toGauss_nodeRoot_succ]
      split
      · rfl
      · exact neg_sq _
    rw [← ih (by omega) hparent hzparent, hwidth, two_mul, Finset.sum_range_add, ← two_mul,
      ← Finset.sum_add_distrib]
    refine Finset.sum_congr rfl fun i hi => ?_
    rw [forwardLevels, toGauss_forwardLevelAt hhalf _ j (Finset.mem_range.mp hi), ← hz, pow_add]
    ring

end Evaluation

/-- Settles O58: after all the levels a node is one sample, and its γ is the leaf's root. -/
theorem levelsEvaluatePolynomial : Obligations.LevelsEvaluatePolynomial := by
  intro K _ root m j u hm h hj
  obtain ⟨m, rfl⟩ := Nat.exists_eq_add_of_le' hm
  have hleaf : (leafRoot root (m + 1) j).toGauss ^ 2 ^ (m + 1 - (m + 1)) =
      (nodeRoot root (m + 1) j).toGauss := by rw [Nat.sub_self, pow_zero, pow_one, nodeRoot]
  have heval := sum_forwardLevels h u le_rfl hj hleaf
  rw [Nat.sub_self, pow_zero, Finset.sum_range_one, pow_zero, mul_one, Nat.mul_one, Nat.add_zero] at heval
  exact Cx.toGauss_injective (heval.trans (toGauss_eval _ _ _).symm)

end Sys2Proof.Machine

/-!
PROOF. The carry and the stitch along one row: what a digit and a carry are bounded by, and the sum both keep
(42_passes.md R163, R164, R170, R171).
-/

namespace Sys2Proof.Machine

/-! ### Bounds of the carry -/

theorem carryRun_cons (b g : Nat) (f o : Int) (os : List Int) :
    carryRun b g f (o :: os) =
      ((carryStep b g o f).1 :: (carryRun b g (carryStep b g o f).2 os).1,
        (carryRun b g (carryStep b g o f).2 os).2) := rfl

/-- A quotient rounded to nearest exceeds the quotient by at most 1/2. -/
theorem roundDiv_natAbs_le (a : Int) {b : Nat} (hb : 0 < b) :
    2 * (b * (roundDiv a b).natAbs) ≤ 2 * a.natAbs + b := by
  obtain ⟨hlo, hhi⟩ := roundDiv_spec a b hb
  have hmul : b * (roundDiv a b).natAbs = (roundDiv a b * b).natAbs := by
    rw [Int.natAbs_mul, Int.natAbs_natCast, mul_comm]
  omega

/-- Every digit of a carry run is at most b/2 in magnitude (42_passes.md R164). -/
theorem carryRun_digit {b : Nat} (hb : 0 < b) (g : Nat) (f : Int) (os : List Int) :
    ∀ z ∈ (carryRun b g f os).1, 2 * z.natAbs ≤ b := by
  induction os generalizing f with
  | nil => simp [carryRun]
  | cons o os ih =>
    obtain ⟨hlo, hhi⟩ := carryStep_digit b g o f hb
    rw [carryRun_cons]
    exact List.forall_mem_cons.mpr ⟨by omega, ih _⟩

/-- One step of the recurrence of 42_passes.md R164: F' ≤ F/b + g·O/b + g + 1/2, times 2·b. -/
theorem carryStep_natAbs_le {b : Nat} (hb : 0 < b) (g : Nat) (o f : Int) :
    2 * (b * (carryStep b g o f).2.natAbs) ≤ 2 * f.natAbs + 2 * (g * o.natAbs) + 2 * (g * b) + b := by
  obtain ⟨hlo, hhi⟩ := roundDiv_spec o b hb
  set q := roundDiv o b
  set r := roundDiv (f + (o - q * b) * g) b
  have hcarry : (carryStep b g o f).2 = r + q * g := rfl
  have hquot : 2 * (b * q.natAbs) ≤ 2 * o.natAbs + b := roundDiv_natAbs_le o hb
  have hrest : 2 * (o - q * b).natAbs ≤ b := by omega
  have hnext : 2 * (b * r.natAbs) ≤ 2 * (f + (o - q * b) * g).natAbs + b := roundDiv_natAbs_le _ hb
  have hin : (f + (o - q * b) * g).natAbs ≤ f.natAbs + (o - q * b).natAbs * g :=
    (Int.natAbs_add_le _ _).trans_eq (by rw [Int.natAbs_mul, Int.natAbs_natCast])
  have hout : (r + q * g).natAbs ≤ r.natAbs + q.natAbs * g :=
    (Int.natAbs_add_le _ _).trans_eq (by rw [Int.natAbs_mul, Int.natAbs_natCast])
  rw [hcarry]
  nlinarith [Nat.mul_le_mul_left b hout, Nat.mul_le_mul_right g hrest, Nat.mul_le_mul_right g hquot]

/-- The fixed point of the recurrence bounds every carry of a run that begins below it (42_passes.md R164). -/
theorem carryRun_carry {b g bound : Nat} (hb : 2 ≤ b) {os : List Int} (hos : ∀ o ∈ os, o.natAbs ≤ bound)
    {f : Int} (hf : b * f.natAbs ≤ 2 * (g * bound + (g + 1) * b)) :
    b * (carryRun b g f os).2.natAbs ≤ 2 * (g * bound + (g + 1) * b) := by
  induction os generalizing f with
  | nil => exact hf
  | cons o os ih =>
    obtain ⟨ho, hos⟩ := List.forall_mem_cons.mp hos
    have hstep := carryStep_natAbs_le (by omega : 0 < b) g o f
    have htwo : 2 * f.natAbs ≤ b * f.natAbs := Nat.mul_le_mul_right _ hb
    have hinput : g * o.natAbs ≤ g * bound := Nat.mul_le_mul_left g ho
    rw [carryRun_cons]
    refine ih hos ?_
    rw [Nat.add_mul] at hf ⊢
    omega

/-- Settles O46: the digits by the rounded division, the carries by the recurrence's fixed point. -/
theorem carryBounds : Obligations.CarryBounds := by
  intro b g bound os hb hos
  exact ⟨carryRun_digit (by omega) g 0 os, carryRun_carry hb hos (by simp)⟩

/-! ### The sum a row keeps -/

theorem carryRun_length (b g : Nat) (f : Int) (os : List Int) :
    (carryRun b g f os).1.length = os.length := by
  induction os generalizing f with
  | nil => rfl
  | cons o os ih => rw [carryRun_cons, List.length_cons, ih, List.length_cons]

theorem carryRun_sum (b g : Nat) (f : Int) (os : List Int) :
    digitSum b (carryRun b g f os).1 + (b : Int) ^ os.length * (carryRun b g f os).2 =
      f + g * digitSum b os := by
  induction os generalizing f with
  | nil => simp [carryRun, digitSum]
  | cons o os ih =>
    have hstep := carryStep_sum b g o f
    rw [carryRun_cons, digitSum, digitSum, List.length_cons, pow_succ]
    linear_combination hstep + (b : Int) * ih (carryStep b g o f).2

theorem stitchRun_length (b : Nat) (f : Int) (zs : List Int) : (stitchRun b f zs).1.length = zs.length := by
  induction zs generalizing f with
  | nil => rfl
  | cons z zs ih =>
    rw [stitchRun]
    split
    · rfl
    · exact congrArg Nat.succ (ih _)

/-- The stitch keeps digit + b·carry at each digit, and stops when the carry is 0 (42_passes.md R170). -/
theorem stitchRun_sum (b : Nat) (f : Int) (zs : List Int) :
    digitSum b (stitchRun b f zs).1 + (b : Int) ^ zs.length * (stitchRun b f zs).2 = f + digitSum b zs := by
  induction zs generalizing f with
  | nil => simp [stitchRun, digitSum]
  | cons z zs ih =>
    rw [stitchRun]
    split
    · next h => rw [h]; ring
    · simp only [digitSum, List.length_cons, pow_succ]
      linear_combination (b : Int) * ih (roundDiv (z + f) b)

theorem addLeftover_length (b : Nat) (f : Int) (zs : List Int) :
    (addLeftover b f zs).length = zs.length := by
  induction zs using addLeftover.induct with
  | case1 => rfl
  | case2 => rfl
  | case3 z zs hne ih => rw [addLeftover, List.length_cons, ih, List.length_cons]; exact hne

/-- The leftover's weight is that of the digit after the last (42_passes.md R171). -/
theorem addLeftover_sum (b : Nat) (f : Int) {zs : List Int} (hzs : zs ≠ []) :
    digitSum b (addLeftover b f zs) = digitSum b zs + (b : Int) ^ zs.length * f := by
  induction zs using addLeftover.induct with
  | case1 => exact absurd rfl hzs
  | case2 z => simp only [addLeftover, digitSum, List.length_singleton]; ring
  | case3 z zs hne ih =>
    rw [addLeftover, digitSum, digitSum, ih hne, List.length_cons, pow_succ]
    · ring
    · exact hne

theorem stitchRow_length (b : Nat) (f : Int) (zs : List Int) : (stitchRow b f zs).length = zs.length := by
  simp only [stitchRow]
  split
  · exact stitchRun_length b f zs
  · exact (addLeftover_length _ _ _).trans (stitchRun_length b f zs)

theorem stitchRow_sum (b : Nat) (f : Int) {zs : List Int} (hzs : zs ≠ []) :
    digitSum b (stitchRow b f zs) = f + digitSum b zs := by
  have hlen := stitchRun_length b f zs
  have hrun := stitchRun_sum b f zs
  simp only [stitchRow]
  split
  · next h => rw [← hrun, h, mul_zero, add_zero]
  · have hne : (stitchRun b f zs).1 ≠ [] := by
      rwa [← List.length_pos_iff, hlen, List.length_pos_iff]
    rw [addLeftover_sum b _ hne, hlen, hrun]

/-- Settles O47: each step of the carry and of the stitch keeps digit + b·carry. -/
theorem carryRowsKeepSum : Obligations.CarryRowsKeepSum :=
  ⟨fun b g f os _ => ⟨carryRun_length b g f os, carryRun_sum b g f os⟩,
    fun b f zs _ hzs => ⟨stitchRow_length b f zs, stitchRow_sum b f hzs⟩⟩

end Sys2Proof.Machine

/-!
PROOF. The split of a digit: floor(c·√b) is computed by the integer square root, so that h is the real z/√b
rounded to nearest (42_passes.md R167).
-/

namespace Sys2Proof.Machine

theorem isqrt_eq_sqrt (n : Nat) : isqrt n = Nat.sqrt n := Nat.eq_sqrt.mpr (isqrt_spec n)

theorem floorMulSqrt_natCast (b c : Nat) : floorMulSqrt b c = ⌊(c : ℝ) * Real.sqrt b⌋ := by
  have hreal : (c : ℝ) * Real.sqrt b = Real.sqrt (c * c * b : Nat) := by
    push_cast
    rw [Real.sqrt_mul (mul_self_nonneg _), Real.sqrt_mul_self c.cast_nonneg]
  rw [floorMulSqrt, if_pos (Int.natCast_nonneg c), Int.natAbs_natCast, isqrt_eq_sqrt, hreal,
    Real.floor_real_sqrt_eq_nat_sqrt]

/-- h is the integer nearest z/√b, halves away from zero: the sign of z and the nearest integer of |z|/√b. -/
theorem splitH_eq {b : Nat} (hb : 0 < b) (z : Int) :
    splitH b z = if z < 0 then -round ((z.natAbs : ℝ) / Real.sqrt b)
      else round ((z.natAbs : ℝ) / Real.sqrt b) := by
  have hroot : 0 < Real.sqrt b := Real.sqrt_pos.mpr (by exact_mod_cast hb)
  have hsq : Real.sqrt b * Real.sqrt b = b := Real.mul_self_sqrt b.cast_nonneg
  have hnearest : (z.natAbs : ℝ) / Real.sqrt b + 1 / 2 =
      ((2 * z.natAbs : Nat) * Real.sqrt b + b) / (2 * b : Nat) := by
    push_cast
    field_simp
    linear_combination -(z.natAbs : ℝ) * 2 * hsq
  have hfloor : (floorMulSqrt b (2 * z.natAbs) + b) / (2 * b) = round ((z.natAbs : ℝ) / Real.sqrt b) := by
    have hcast : (2 * z.natAbs : Int) = (2 * z.natAbs : Nat) := by push_cast; rfl
    rw [round_eq, hnearest, Int.floor_div_natCast, Int.floor_add_natCast, hcast, floorMulSqrt_natCast]
    push_cast
    rfl
  simp only [splitH, hfloor]

/-- The remainder of a split, and h in magnitude, do not depend on the sign of z. -/
theorem splitH_abs {b : Nat} (hb : 0 < b) (z : Int) :
    |(z : ℝ) - splitH b z * Real.sqrt b| =
        |(z.natAbs : ℝ) - round ((z.natAbs : ℝ) / Real.sqrt b) * Real.sqrt b| ∧
      |splitH b z| = round ((z.natAbs : ℝ) / Real.sqrt b) := by
  have hpos : 0 ≤ round ((z.natAbs : ℝ) / Real.sqrt b) := by
    rw [round_eq]
    exact Int.floor_nonneg.mpr (by positivity)
  rw [splitH_eq hb]
  split
  · next h =>
    have hz : (z : ℝ) = -(z.natAbs : ℝ) := by
      rw [Nat.cast_natAbs, abs_of_neg h]
      push_cast
      ring
    refine ⟨?_, by rw [abs_neg, abs_of_nonneg hpos]⟩
    rw [hz, ← abs_neg]
    push_cast
    ring_nf
  · next h =>
    have hz : (z : ℝ) = z.natAbs := by rw [Nat.cast_natAbs, abs_of_nonneg (not_lt.mp h)]
    exact ⟨by rw [← hz], abs_of_nonneg hpos⟩

/-- Settles O54: |z|/√b and its nearest integer differ by at most 1/2, and rounding is monotone. -/
theorem splitBounds : Obligations.SplitBounds := by
  intro b z hb
  have hroot : 0 < Real.sqrt b := Real.sqrt_pos.mpr (by exact_mod_cast hb)
  obtain ⟨hrest, hh⟩ := splitH_abs hb z
  set x := (z.natAbs : ℝ) / Real.sqrt b with hx
  have hxz : (z.natAbs : ℝ) = x * Real.sqrt b := (div_mul_cancel₀ _ hroot.ne').symm
  refine ⟨?_, fun hz => ?_⟩
  · calc |(z : ℝ) - splitH b z * Real.sqrt b| = |x - round x| * Real.sqrt b := by
          rw [hrest, hxz, ← sub_mul, abs_mul, abs_of_pos hroot]
      _ ≤ 1 / 2 * Real.sqrt b := by gcongr; exact abs_sub_round x
      _ = Real.sqrt b / 2 := by ring
  · have hzb : 2 * (z.natAbs : ℝ) ≤ Real.sqrt b * Real.sqrt b := by
      rw [Real.mul_self_sqrt b.cast_nonneg]
      exact_mod_cast (by zify; exact hz : 2 * z.natAbs ≤ b)
    have hxle : x ≤ Real.sqrt b / 2 := by
      rw [hx, div_le_iff₀ hroot]
      linarith
    rw [hh, round_eq]
    exact Int.floor_mono (by linarith)

end Sys2Proof.Machine

/-!
SUPPORT. What the PEs own: consecutive blocks of column groups and of row pairs, and the positions of a PE's
columns in one row (42_passes.md R155, R160; 20_memory.md R83).
-/

namespace Sys2Proof.Machine

/-! ### Consecutive blocks -/

/-- A value between the ends of a rising sequence of bounds lies in exactly one of its blocks. -/
theorem existsUnique_block {P : Nat → Nat} (hP : Monotone P) {x t : Nat} (h0 : P 0 ≤ x) (ht : x < P t) :
    ∃! pe, pe < t ∧ P pe ≤ x ∧ x < P (pe + 1) := by
  have hex : ∃ pe < t, P pe ≤ x ∧ x < P (pe + 1) := by
    induction t with
    | zero => omega
    | succ t ih =>
      obtain hlt | hge := Nat.lt_or_ge x (P t)
      · obtain ⟨pe, hpe, hx⟩ := ih hlt
        exact ⟨pe, by omega, hx⟩
      · exact ⟨t, t.lt_succ_self, hge, ht⟩
  obtain ⟨pe, hpe, hlo, hhi⟩ := hex
  refine ⟨pe, ⟨hpe, hlo, hhi⟩, fun qe ⟨_, hqlo, hqhi⟩ => ?_⟩
  by_contra hne
  obtain hlt | hlt := Nat.lt_or_gt_of_ne hne
  · exact absurd (hP (show qe + 1 ≤ pe from hlt)) (by omega)
  · exact absurd (hP (show pe + 1 ≤ qe from hlt)) (by omega)

/-- The blocks of n items over t PEs begin at rising places. -/
theorem monotone_share (n t : Nat) : Monotone fun pe => pe * n / t :=
  fun _ _ h => Nat.div_le_div_right (Nat.mul_le_mul_right n h)

/-! ### Column groups -/

theorem monotone_firstGroup (l t : Nat) : Monotone (firstGroup l t) := monotone_share (g8 l) t

theorem firstGroup_zero (l t : Nat) : firstGroup l t 0 = 0 := by rw [firstGroup, Nat.zero_mul, Nat.zero_div]

theorem firstGroup_last {l t : Nat} (ht : 0 < t) : firstGroup l t t = g8 l := Nat.mul_div_cancel_left _ ht

/-- With at most G8 PEs every PE owns a column group (42_passes.md R160). -/
theorem firstGroup_lt_succ {l t : Nat} (ht : 0 < t) (htg : t ≤ g8 l) (pe : Nat) :
    firstGroup l t pe < firstGroup l t (pe + 1) := by
  have hstep : pe * g8 l + t ≤ (pe + 1) * g8 l := by rw [Nat.succ_mul]; omega
  rw [firstGroup, firstGroup, ← Nat.add_one_le_iff, ← Nat.add_div_right _ ht]
  exact Nat.div_le_div_right hstep

/-- A column group's owner is the PE whose range it lies in (42_passes.md R160). -/
theorem groupOwner_eq {l t pe lh : Nat} (hpe : pe < t) (hlo : firstGroup l t pe ≤ lh)
    (hhi : lh < firstGroup l t (pe + 1)) : groupOwner l t lh = pe := by
  have hmono := monotone_firstGroup l t
  have hfilter : (List.range t).filter (fun i => firstGroup l t i ≤ lh) = List.range (pe + 1) := by
    obtain ⟨k, rfl⟩ := Nat.exists_eq_add_of_le hpe
    rw [List.range_add, List.filter_append, List.filter_eq_self.mpr, List.filter_eq_nil_iff.mpr,
      List.append_nil]
    · simp only [List.forall_mem_map, decide_eq_true_eq, not_le]
      exact fun i _ => hhi.trans_le (hmono (Nat.le_add_right _ _))
    · simp only [List.mem_range, decide_eq_true_eq]
      exact fun i hi => (hmono (Nat.le_of_lt_succ hi)).trans hlo
  rw [groupOwner, hfilter, List.length_range, Nat.add_sub_cancel]

theorem groupOwner_spec {l t lh : Nat} (ht : 0 < t) (h : lh < g8 l) :
    groupOwner l t lh < t ∧ firstGroup l t (groupOwner l t lh) ≤ lh ∧
      lh < firstGroup l t (groupOwner l t lh + 1) := by
  obtain ⟨pe, ⟨hpe, hlo, hhi⟩, -⟩ := existsUnique_block (monotone_firstGroup l t) (x := lh)
    (by rw [firstGroup_zero]; exact lh.zero_le) (by rwa [firstGroup_last ht])
  rw [groupOwner_eq hpe hlo hhi]
  exact ⟨hpe, hlo, hhi⟩

/-! ### The columns of a PE in one row -/

theorem eight_mul_g8 (l : Nat) : 8 * g8 l = nio l := by
  rw [g8, nio_eq]
  split_ifs <;> rfl

/-- The position of the first column of PE pe in a row. -/
def peStart (l t row pe : Nat) : Nat := row * nio l + 8 * firstGroup l t pe

theorem monotone_peStart (l t row : Nat) : Monotone (peStart l t row) :=
  fun _ _ h => Nat.add_le_add_left (Nat.mul_le_mul_left 8 (monotone_firstGroup l t h)) _

theorem peStart_zero (l t row : Nat) : peStart l t row 0 = row * nio l := by
  rw [peStart, firstGroup_zero, Nat.mul_zero, Nat.add_zero]

theorem peStart_last {l t : Nat} (ht : 0 < t) (row : Nat) : peStart l t row t = (row + 1) * nio l := by
  rw [peStart, firstGroup_last ht, eight_mul_g8, Nat.succ_mul]

/-- How many columns PE pe owns. -/
theorem peStart_sub (l t row pe : Nat) :
    peStart l t row (pe + 1) - peStart l t row pe =
      8 * (firstGroup l t (pe + 1) - firstGroup l t pe) := by
  simp only [peStart]
  omega

section Columns

variable {l t row pe i : Nat} (hpe : pe < t) (hi : peStart l t row pe + i < peStart l t row (pe + 1))
include hpe hi

theorem peColumn_lt : 8 * firstGroup l t pe + i < nio l := by
  have hle := monotone_firstGroup l t (show pe + 1 ≤ t from hpe)
  rw [firstGroup_last (by omega)] at hle
  have := eight_mul_g8 l
  simp only [peStart] at hi
  omega

theorem peStart_mod : (peStart l t row pe + i) % nio l = 8 * firstGroup l t pe + i := by
  rw [peStart, Nat.add_assoc, Nat.add_comm, Nat.add_mul_mod_self_right,
    Nat.mod_eq_of_lt (peColumn_lt hpe hi)]

theorem peStart_div : (peStart l t row pe + i) / nio l = row := by
  rw [peStart, Nat.add_assoc, Nat.add_comm, Nat.add_mul_div_right _ _ (nio_pos l),
    Nat.div_eq_of_lt (peColumn_lt hpe hi), Nat.zero_add]

theorem groupOwner_peStart : groupOwner l t ((peStart l t row pe + i) % nio l / 8) = pe := by
  rw [peStart_mod hpe hi]
  simp only [peStart] at hi
  exact groupOwner_eq hpe (by omega) (by omega)

/-- A PE's first column group is its first eight columns. -/
theorem inFirstGroup_peStart : inFirstGroup l t (peStart l t row pe + i) = decide (i < 8) := by
  rw [inFirstGroup, groupOwner_peStart hpe hi, peStart_mod hpe hi, beq_eq_decide, decide_eq_decide]
  omega

end Columns

/-- Every position lies in a row, and there in the columns of one PE. -/
theorem exists_peStart {l t k : Nat} (ht : 0 < t) (hl : 10 ≤ l) (hk : k < nLen l) :
    ∃ row pe i, row < rowsOf l ∧ pe < t ∧ peStart l t row pe + i < peStart l t row (pe + 1) ∧
      k = peStart l t row pe + i := by
  obtain ⟨pe, ⟨hpe, hlo, hhi⟩, -⟩ := existsUnique_block (monotone_peStart l t (k / nio l)) (x := k) (t := t)
    (by rw [peStart_zero]; exact Nat.div_mul_le_self k _)
    (by rw [peStart_last ht, Nat.succ_mul]; exact Nat.lt_div_mul_add (nio_pos l))
  refine ⟨k / nio l, pe, k - peStart l t (k / nio l) pe, ?_, hpe, by omega, by omega⟩
  rwa [Nat.div_lt_iff_lt_mul (nio_pos l), Nat.mul_comm, nio_mul_rowsOf hl]

end Sys2Proof.Machine

/-!
PROOF. The passes keep the value modulo n: each block of columns of a PE in a row takes a carry in, passes one
on, and keeps digits plus carry; the blocks' carries cancel along the row and from row to row, and the last
one returns negated (42_passes.md R161, R169, R170, R173).
-/

namespace Sys2Proof.Machine

/-! ### Sums over consecutive positions -/

/-- The sum of the digits at `len` positions from `start` on, the first of weight 1. -/
def digitSpan (b : Nat) (z : Nat → Int) (start len : Nat) : Int :=
  digitSum b ((List.range len).map fun i => z (start + i))

theorem digitSpan_add (b : Nat) (z : Nat → Int) (start m n : Nat) :
    digitSpan b z start (m + n) = digitSpan b z start m + (b : Int) ^ m * digitSpan b z (start + m) n := by
  simp only [digitSpan, List.range_add, List.map_append, digitSum_append, List.length_map, List.length_range,
    List.map_map, Function.comp_def, Nat.add_assoc]

theorem map_getD_range {α : Type} (xs : List α) (d : α) :
    ((List.range xs.length).map fun i => xs.getD i d) = xs :=
  List.ext_getElem (by simp) fun i _ h => by simpa using List.getD_eq_getElem xs d h

/-- Positions that hold the digits of a list. -/
theorem digitSpan_eq_of_getD (b : Nat) {z : Nat → Int} {start len : Nat} {xs : List Int}
    (hlen : xs.length = len) (h : ∀ i < len, z (start + i) = xs.getD i 0) :
    digitSpan b z start len = digitSum b xs := by
  subst hlen
  rw [digitSpan, List.map_congr_left fun i hi => h i (List.mem_range.mp hi), map_getD_range]

theorem digitSpan_congr (b : Nat) {z w : Nat → Int} {start len : Nat}
    (h : ∀ i < len, z (start + i) = w (start + i)) : digitSpan b z start len = digitSpan b w start len := by
  rw [digitSpan, digitSpan, List.map_congr_left fun i hi => h i (List.mem_range.mp hi)]

/-! ### Blocks that carry over -/

/-- From position `start` to `stop`, the digits z and the carry passed on are the carry taken in and g times the
inputs o. -/
def CarriesOver (b g : Nat) (o z : Nat → Int) (start stop : Nat) (cin cout : Int) : Prop :=
  digitSpan b z start (stop - start) + (b : Int) ^ (stop - start) * cout =
    cin + g * digitSpan b o start (stop - start)

theorem CarriesOver.refl (b g : Nat) (o z : Nat → Int) (start : Nat) (c : Int) :
    CarriesOver b g o z start start c c := by
  simp [CarriesOver, digitSpan, digitSum]

theorem CarriesOver.trans {b g : Nat} {o z : Nat → Int} {i j k : Nat} {c d e : Int} (hij : i ≤ j)
    (hjk : j ≤ k) (h : CarriesOver b g o z i j c d) (h' : CarriesOver b g o z j k d e) :
    CarriesOver b g o z i k c e := by
  have hlen : k - i = (j - i) + (k - j) := by omega
  have hmid : i + (j - i) = j := by omega
  simp only [CarriesOver] at h h' ⊢
  rw [hlen, digitSpan_add, digitSpan_add, hmid, pow_add]
  linear_combination h + (b : Int) ^ (j - i) * h'

/-- Blocks in a row, each of which takes in what the one before passes on. -/
theorem CarriesOver.chain {b g : Nat} {o z : Nat → Int} {P : Nat → Nat} (hP : Monotone P) {c : Nat → Int}
    {m : Nat} (h : ∀ i < m, CarriesOver b g o z (P i) (P (i + 1)) (c i) (c (i + 1))) :
    CarriesOver b g o z (P 0) (P m) (c 0) (c m) := by
  induction m with
  | zero => exact .refl ..
  | succ m ih =>
    exact (ih fun i hi => h i (by omega)).trans (hP m.zero_le) (hP m.le_succ) (h m m.lt_succ_self)

/-- A first carry that is the last one negated vanishes modulo b^N + 1. -/
theorem CarriesOver.modEq {b g n : Nat} {o z : Nat → Int} {c : Int}
    (h : CarriesOver b g o z 0 n (-c) c) :
    digitSum b ((List.range n).map z) ≡ g * digitSum b ((List.range n).map o) [ZMOD (b ^ n + 1 : Nat)] := by
  simp only [CarriesOver, Nat.sub_zero, digitSpan, Nat.zero_add] at h
  refine Int.modEq_iff_dvd.mpr ⟨c, ?_⟩
  push_cast
  linear_combination -h

/-! ### Pass 2: the carry -/

theorem flatMap_range_eight {α : Type} (f : Nat → α) (m : Nat) :
    ((List.range m).flatMap fun i => (List.range 8).map fun j => f (8 * i + j)) = (List.range (8 * m)).map f := by
  induction m with
  | zero => rfl
  | succ m ih =>
    rw [List.range_succ (n := m), List.flatMap_append, ih, Nat.mul_succ, List.range_add, List.map_append,
      List.map_map]
    simp [Function.comp_def]

/-- The rounded carry inputs of a PE in a row are those of its columns, in order (42_passes.md R161). -/
theorem peRowInputs_eq (W : LaneWidth) (l t pe row : Nat) (o : Nat → Int) :
    peRowInputs W l t pe row o =
      (List.range (peStart l t row (pe + 1) - peStart l t row pe)).map fun i => o (peStart l t row pe + i) := by
  rw [peStart_sub, ← flatMap_range_eight, peRowInputs]
  simp only [tileDigits_eq, peStart, Nat.mul_add, Nat.add_assoc]

/-- The carry loop of a PE along a row, begun with carry 0 (42_passes.md R161). -/
def peRun (W : LaneWidth) (b g l t : Nat) (o : Nat → Int) (pe row : Nat) : List Int × Int :=
  carryRun b g 0 (peRowInputs W l t pe row o)

theorem peRun_length (W : LaneWidth) (b g l t : Nat) (o : Nat → Int) (pe row : Nat) :
    (peRun W b g l t o pe row).1.length = peStart l t row (pe + 1) - peStart l t row pe := by
  rw [peRun, carryRun_length, peRowInputs_eq, List.length_map, List.length_range]

section Carry

variable (W : LaneWidth) (b g : Nat) (o : Nat → Int) {l t row pe : Nat} (hrow : row < rowsOf l) (hpe : pe < t)
include hrow hpe

theorem carryEntry_carryTable :
    carryEntry (carryTable W b g l t o) pe row =
      ((peRun W b g l t o pe row).1.toArray, (peRun W b g l t o pe row).2) := by
  rw [carryEntry, carryTable, tabulate_getD, if_pos hpe, tabulate_getD, if_pos hrow]
  rfl

theorem slotAt_carrySlots :
    slotAt (carrySlots l t (carryTable W b g l t o)) pe row = (peRun W b g l t o pe row).2 := by
  simp [slotAt, carrySlots, hrow, hpe, carryEntry_carryTable W b g o hrow hpe]

theorem carryDigit_peStart {i : Nat} (hi : peStart l t row pe + i < peStart l t row (pe + 1)) :
    carryDigit l t (carryTable W b g l t o) (peStart l t row pe + i) =
      (peRun W b g l t o pe row).1.getD i 0 := by
  simp only [carryDigit]
  rw [groupOwner_peStart hpe hi, peStart_div hpe hi, peStart_mod hpe hi,
    carryEntry_carryTable W b g o hrow hpe, Nat.add_sub_cancel_left]
  simp

/-- A PE's carry along a row begins with 0 and ends in its slot (42_passes.md R161). -/
theorem carryDigit_carriesOver :
    CarriesOver b g o (carryDigit l t (carryTable W b g l t o)) (peStart l t row pe)
      (peStart l t row (pe + 1)) 0 (slotAt (carrySlots l t (carryTable W b g l t o)) pe row) := by
  have hdigits := digitSpan_eq_of_getD b (peRun_length W b g l t o pe row)
    fun i hi => carryDigit_peStart W b g o hrow hpe (i := i) (by omega)
  have hsum := carryRun_sum b g 0 (peRowInputs W l t pe row o)
  rw [← peRun, peRowInputs_eq, List.length_map, List.length_range] at hsum
  rw [CarriesOver, slotAt_carrySlots W b g o hrow hpe, hdigits]
  exact hsum

end Carry

/-! ### Pass 2_1: the stitch -/

/-- A row of the stitched tile is the stitch of the row's eight digits (42_passes.md R170). -/
theorem stitchTile_lane (W : LaneWidth) (b l t : Nat) (z : Nat → Int) (f : List (List Int)) (pe l0 : Nat)
    (i : Fin W.lanes) {q : Nat} (hq : q < 8) :
    (vcxLane (stitchTile W b l t z f pe l0)[q] i).re =
      (stitchRow b (carryIn l t f pe (l0 + i))
        ((List.range 8).map fun j => z (peStart l t (l0 + i) pe + j))).getD q 0 := by
  have hrow : ((transposeIn (tileLoad W.lanes (digitSample z) (nio l) (firstGroup l t pe) l0))[i]).toList.map
      Cx.re = (List.range 8).map fun j => z (peStart l t (l0 + i) pe + j) := by
    refine List.ext_getElem (by simp) fun j hj _ => ?_
    simp [transposeIn, tileLoad, vcxLane, vcxOfLanes, tilePosition, digitSample, peStart]
  simp only [stitchTile, transposeOut, vcxLane, vcxOfLanes, Fin.getElem_fin, Vector.getElem_ofFn]
  rw [← hrow]
  rfl

theorem lanes_dvd_rowsOf (W : LaneWidth) {l : Nat} (hl : 10 ≤ l) : W.lanes ∣ rowsOf l := by
  have hlanes : W.lanes ∣ 2 ^ 4 := by cases W <;> decide
  rw [rowsOf_eq hl]
  exact hlanes.trans (Nat.pow_dvd_pow 2 (four_le_lS hl))

/-- Outside the PEs' first column groups the stitch changes nothing (20_memory.md R92). -/
theorem stitchDigit_outside (W : LaneWidth) {l t k : Nat} (h : inFirstGroup l t k = false)
    (tbl : Array (Array (Vcx8 Int W.lanes))) (z : Nat → Int) : stitchDigit W l t tbl z k = z k := by
  have hne : k % nio l / 8 ≠ firstGroup l t (groupOwner l t (k % nio l / 8)) := by
    simpa [inFirstGroup] using h
  rw [stitchDigit]
  split
  · rw [tileStore_outside _ _ _ _ _ _ fun hin => hne hin.1]
    rfl
  · rfl

theorem tabulate_getElem? {β : Type} (n : Nat) (g : Nat → β) {k : Nat} (hk : k < n) :
    (tabulate n g)[k]? = some (g k) := by
  simp [tabulate, hk]

theorem stitchTable_tile (W : LaneWidth) (b : Nat) {l t row pe : Nat} (hl : 10 ≤ l) (hrow : row < rowsOf l)
    (hpe : pe < t) (z : Nat → Int) (f : List (List Int)) :
    ((stitchTable W b l t z f).getD pe #[])[row / W.lanes]? =
      some (stitchTile W b l t z f pe (rowGroup W row)) := by
  rw [stitchTable, tabulate_getD, if_pos hpe,
    tabulate_getElem? _ _ (Nat.div_lt_div_of_lt_of_dvd (lanes_dvd_rowsOf W hl) hrow)]
  rfl

/-- The digits the stitch leaves in a PE's first column group (42_passes.md R170). -/
theorem stitchDigit_first (W : LaneWidth) (b : Nat) {l t row pe q : Nat} (hl : 10 ≤ l) (hrow : row < rowsOf l)
    (hpe : pe < t) (hq : q < 8) (hi : peStart l t row pe + q < peStart l t row (pe + 1)) (z z' : Nat → Int)
    (f : List (List Int)) :
    stitchDigit W l t (stitchTable W b l t z f) z' (peStart l t row pe + q) =
      (stitchRow b (carryIn l t f pe row)
        ((List.range 8).map fun j => z (peStart l t row pe + j))).getD q 0 := by
  have hgroup := rowGroup_add_laneOf W row
  have hlane := (laneOf W row).isLt
  have hmod := peStart_mod hpe hi
  have hdiv := peStart_div hpe hi
  have hpos : (peStart l t row pe + q) % 8 = q := by
    have hnio : 8 ∣ nio l := ⟨g8 l, (eight_mul_g8 l).symm⟩
    rw [← Nat.mod_mod_of_dvd _ hnio, hmod]
    omega
  simp only [stitchDigit, groupOwner_peStart hpe hi, hdiv, stitchTable_tile W b hl hrow hpe]
  rw [tileStore_inside _ _ _ _ _ _ (by rw [hmod, hdiv]; omega)]
  simp only [hpos, hdiv]
  have hfin : row - rowGroup W row = laneOf W row := by omega
  simp only [hfin, Fin.eta]
  rw [stitchTile_lane W b l t z f pe _ _ hq, hgroup]

theorem carryIn_succ {l t row pe : Nat} (hpe : pe + 1 < t) (f : List (List Int)) :
    carryIn l t f (pe + 1) row = slotAt f pe row := by
  have hpred : ringPred t (pe + 1) = pe := by
    rw [ringPred, show pe + 1 + t - 1 = pe + t by omega, Nat.add_mod_right, Nat.mod_eq_of_lt (by omega)]
  rw [carryIn, if_neg pe.succ_ne_zero, hpred]

/-- PE 0 takes in the last PE's carry of the row before, negated into row 0 (42_passes.md R169). -/
theorem carryIn_zero {l t : Nat} (ht : 0 < t) (f : List (List Int)) (row : Nat) :
    carryIn l t f 0 row =
      if row = 0 then -slotAt f (t - 1) (rowsOf l - 1) else slotAt f (t - 1) (row - 1) := by
  have hpred : ringPred t 0 = t - 1 := by rw [ringPred, Nat.zero_add, Nat.mod_eq_of_lt (by omega)]
  rw [carryIn, if_pos rfl, hpred]

section Value

variable (W : LaneWidth) (b g : Nat) (o : Nat → Int) {l t : Nat} (hl : 10 ≤ l) (ht : 0 < t) (htg : t ≤ g8 l)
include hl ht htg

/-- In a PE's first column group the stitch adds the carry taken in (42_passes.md R170, R171). -/
theorem stitchedDigits_first_span {row pe : Nat} (hrow : row < rowsOf l) (hpe : pe < t) :
    digitSpan b (stitchedDigits W b g l t o) (peStart l t row pe) 8 =
      carryIn l t (carrySlots l t (carryTable W b g l t o)) pe row +
        digitSpan b (carryDigit l t (carryTable W b g l t o)) (peStart l t row pe) 8 := by
  have hgroup := firstGroup_lt_succ ht htg pe
  have hwidth := peStart_sub l t row pe
  refine (digitSpan_eq_of_getD b ?_ fun q hq =>
    stitchDigit_first W b hl hrow hpe hq (by omega) _ _ _).trans (stitchRow_sum b _ (by simp))
  rw [stitchRow_length, List.length_map, List.length_range]

/-- A PE's stitched digits in a row take in a carry and pass its slot on (42_passes.md R169, R170). -/
theorem stitchedDigits_carriesOver {row pe : Nat} (hrow : row < rowsOf l) (hpe : pe < t) :
    CarriesOver b g o (stitchedDigits W b g l t o) (peStart l t row pe) (peStart l t row (pe + 1))
      (carryIn l t (carrySlots l t (carryTable W b g l t o)) pe row)
      (slotAt (carrySlots l t (carryTable W b g l t o)) pe row) := by
  have hcarry := carryDigit_carriesOver W b g o hrow hpe
  have hfirst := stitchedDigits_first_span W b g o hl ht htg hrow hpe
  have hgroup := firstGroup_lt_succ ht htg pe
  obtain ⟨rest, hrest⟩ : ∃ rest, peStart l t row (pe + 1) - peStart l t row pe = 8 + rest :=
    Nat.exists_eq_add_of_le (by rw [peStart_sub]; omega)
  have hafter : digitSpan b (stitchedDigits W b g l t o) (peStart l t row pe + 8) rest =
      digitSpan b (carryDigit l t (carryTable W b g l t o)) (peStart l t row pe + 8) rest := by
    refine digitSpan_congr b fun i hi => stitchDigit_outside W ?_ _ _
    rw [Nat.add_assoc, inFirstGroup_peStart hpe (by omega), decide_eq_false (by omega)]
  simp only [CarriesOver] at hcarry ⊢
  rw [hrest, digitSpan_add] at hcarry ⊢
  rw [hfirst, hafter]
  linear_combination hcarry

/-- Along a row each PE takes in what its predecessor passes on. -/
theorem stitchedDigits_row {row : Nat} (hrow : row < rowsOf l) :
    CarriesOver b g o (stitchedDigits W b g l t o) (row * nio l) ((row + 1) * nio l)
      (carryIn l t (carrySlots l t (carryTable W b g l t o)) 0 row)
      (slotAt (carrySlots l t (carryTable W b g l t o)) (t - 1) row) := by
  have hblock := fun pe hpe => stitchedDigits_carriesOver W b g o hl ht htg hrow (pe := pe) hpe
  set f := carrySlots l t (carryTable W b g l t o)
  have hchain := CarriesOver.chain (b := b) (g := g) (o := o) (z := stitchedDigits W b g l t o)
    (monotone_peStart l t row) (m := t)
    (c := fun pe => if pe = 0 then carryIn l t f 0 row else slotAt f (pe - 1) row) fun pe hpe => by
      cases pe with
      | zero => exact hblock 0 hpe
      | succ pe => exact carryIn_succ (l := l) hpe f ▸ hblock (pe + 1) hpe
  rwa [peStart_zero, peStart_last ht, if_pos rfl, if_neg ht.ne'] at hchain

/-- From row to row the carry goes on, and the last row's returns to row 0 negated. -/
theorem stitchedDigits_ring :
    ∃ c, CarriesOver b g o (stitchedDigits W b g l t o) 0 (nLen l) (-c) c := by
  have hblock := fun row hrow => stitchedDigits_row W b g o hl ht htg (row := row) hrow
  set f := carrySlots l t (carryTable W b g l t o)
  have hmono : Monotone fun row => row * nio l := fun _ _ h => Nat.mul_le_mul_right _ h
  have hrows : rowsOf l ≠ 0 := by rw [rowsOf_eq hl]; positivity
  have hchain := CarriesOver.chain (b := b) (g := g) (o := o) (z := stitchedDigits W b g l t o) hmono
    (m := rowsOf l) (c := fun row =>
      if row = 0 then -slotAt f (t - 1) (rowsOf l - 1) else slotAt f (t - 1) (row - 1)) fun row hrow =>
        carryIn_zero (l := l) ht f row ▸ hblock row hrow
  rw [Nat.zero_mul, Nat.mul_comm, nio_mul_rowsOf hl, if_pos rfl, if_neg hrows] at hchain
  exact ⟨_, hchain⟩

/-- The stitched digits' sum is g times the inputs' modulo n (42_passes.md R173). -/
theorem stitchedDigits_modEq :
    digitSum b ((List.range (nLen l)).map (stitchedDigits W b g l t o)) ≡
      g * digitSum b ((List.range (nLen l)).map o) [ZMOD (modulus b l)] := by
  obtain ⟨c, hc⟩ := stitchedDigits_ring W b g o hl ht htg
  exact hc.modEq

end Value

end Sys2Proof.Machine

/-!
SUPPORT. What a stage reads: a butterfly's samples lie in one column of its step and in one node. So the outer
stages stay within the columns of a row and the inner stages within a row, on any datapath (41_butterflies.md
R131).
-/

namespace Sys2Proof.Machine

section Reads

variable {α : Type}

/-! ### One stage -/

theorem quad_congr {x y : Nat → Cx α} {q i : Nat} (h : ∀ r < 4, x (i + r * q) = y (i + r * q)) :
    quad x q i = quad y q i := by
  have h0 := h 0 (by decide)
  have h1 := h 1 (by decide)
  rw [Nat.zero_mul, Nat.add_zero] at h0
  rw [Nat.one_mul] at h1
  rw [quad, quad, h0, h1, h 2 (by decide), h 3 (by decide)]

theorem oct_congr {x y : Nat → Cx α} {q i : Nat} (h : ∀ r < 8, x (i + r * q) = y (i + r * q)) :
    oct x q i = oct y q i := by
  refine congrArg₂ X8.ofHalves (quad_congr fun r hr => h r (by omega)) (quad_congr fun r hr => ?_)
  rw [show i + 4 * q + r * q = i + (r + 4) * q by ring]
  exact h _ (by omega)

/-- A radix-4 stage reads the samples of the position's column and node. -/
theorem stage4At_congr {even odd : TwTriple α → X4 α → X4 α} {tri : Nat → TwTriple α} {n s q p : Nat}
    {x y : Nat → Cx α} (hn : n / 2 ^ s = 4 * q) (hq : 0 < q)
    (h : ∀ i, i % q = p % q → i / (4 * q) = p / (4 * q) → x i = y i) :
    stage4At even odd tri n s x p = stage4At even odd tri n s y p := by
  have hquarter : n / 2 ^ s / 4 = q := by omega
  have hcol : p % q < q := Nat.mod_lt _ hq
  have hquad : quad x q (p / (4 * q) * (4 * q) + p % q) = quad y q (p / (4 * q) * (4 * q) + p % q) :=
    quad_congr fun _ hr => h _ (column_of_position hcol) (block_of_position hcol hr)
  simp only [stage4At, hquarter]
  exact congrArg (fun four => if p / (4 * q) % 2 = 0 then x4Get (even (tri (p / (4 * q))) four) (p / q % 4)
    else x4Get (odd (tri (p / (4 * q) - 1)) four) (p / q % 4)) hquad

/-- The samples the top butterfly of a position reads lie in the position's column. -/
theorem eq_of_top_column {n m q p r : Nat} {x y : Nat → Cx α} (hn : n = m * q) (hq : 0 < q)
    (h : ∀ i < n, i % q = p % q → x i = y i) (hr : r < m) : x (p % q + r * q) = y (p % q + r * q) := by
  refine h _ ?_ (by rw [Nat.add_mul_mod_self_right, Nat.mod_mod])
  have hcol : p % q < q := Nat.mod_lt _ hq
  have hrow := Nat.mul_le_mul_right q (Nat.succ_le_of_lt hr)
  rw [Nat.succ_mul] at hrow
  omega

theorem top4At_congr {f : X4 α → X4 α} {n q p : Nat} {x y : Nat → Cx α} (hn : n = 4 * q) (hq : 0 < q)
    (h : ∀ i < n, i % q = p % q → x i = y i) : top4At f n x p = top4At f n y p := by
  have hquarter : n / 4 = q := by omega
  simp only [top4At, hquarter]
  exact congrArg (fun four => x4Get (f four) (p / q)) (quad_congr fun _ hr => eq_of_top_column hn hq h hr)

theorem top8At_congr {f : X8 α → X8 α} {n q p : Nat} {x y : Nat → Cx α} (hn : n = 8 * q) (hq : 0 < q)
    (h : ∀ i < n, i % q = p % q → x i = y i) : top8At f n x p = top8At f n y p := by
  have heighth : n / 8 = q := by omega
  simp only [top8At, heighth, ← oct_eq]
  rw [oct_congr fun _ hr => eq_of_top_column hn hq h hr]

/-! ### Positions by column and by row -/

/-- The positions of an image in some of the columns of a row (20_memory.md R83). -/
def inColumns (l : Nat) (C : Set Nat) : Set Nat := {k | k < nLen l ∧ k % nio l ∈ C}

/-- The positions of an image in some of its rows (20_memory.md R83). -/
def inRows (l : Nat) (R : Set Nat) : Set Nat := {k | k < nLen l ∧ k / nio l ∈ R}

/-- Two vectors hold the same samples at some positions. -/
def SameSamples (A : Arith α) (D : Set Nat) (u v : Array (Cx α)) : Prop :=
  Set.EqOn (sampleAt A u) (sampleAt A v) D

variable (A : Arith α) (k : Roots α) {l s : Nat} {D C R : Set Nat} {u v : Array (Cx α)}

theorem SameSamples.tabulate {A : Arith α} {n : Nat} {f g : Nat → Cx α} (h : ∀ p ∈ D, f p = g p) :
    SameSamples A D (tabulate n f) (tabulate n g) := by
  intro p hp
  rw [sampleAt_tabulate, sampleAt_tabulate, h p hp]

/-- What the stage on levels (s, s + 1) reads to write a position of D lies in D. -/
def ReadsWithin (l s : Nat) (D : Set Nat) : Prop :=
  ∀ p ∈ D, ∀ i, i % 2 ^ (l - s - 2) = p % 2 ^ (l - s - 2) →
    i / (4 * 2 ^ (l - s - 2)) = p / (4 * 2 ^ (l - s - 2)) → i ∈ D

theorem mod_nio_of_mod_pow {m p i : Nat} (hl : 10 ≤ l) (hm : l - lS l ≤ m) (h : i % 2 ^ m = p % 2 ^ m) :
    i % nio l = p % nio l := by
  have hdvd : nio l ∣ 2 ^ m := by rw [nio, ← sub_lS hl]; exact Nat.pow_dvd_pow 2 hm
  rw [← Nat.mod_mod_of_dvd i hdvd, h, Nat.mod_mod_of_dvd p hdvd]

theorem lt_nLen_of_node {p i : Nat} (hs : s + 2 ≤ l) (hp : p < nLen l)
    (h : i / (4 * 2 ^ (l - s - 2)) = p / (4 * 2 ^ (l - s - 2))) : i < nLen l := by
  have hdvd : 4 * 2 ^ (l - s - 2) ∣ nLen l := by
    rw [← quarter_of_level hs]
    exact Nat.div_dvd_of_dvd (Nat.pow_dvd_pow 2 (by omega))
  have hlt := Nat.div_lt_div_of_lt_of_dvd hdvd hp
  rw [← h] at hlt
  exact Nat.lt_of_div_lt_div hlt

/-- An outer stage reads the columns it writes. -/
theorem inColumns_readsWithin (hl : 10 ≤ l) (hs : s + 2 ≤ lS l) : ReadsWithin l s (inColumns l C) :=
  fun _ hp _ hcol hnode => ⟨lt_nLen_of_node (hs.trans (lS_le l)) hp.1 hnode,
    mod_nio_of_mod_pow hl (by omega) hcol ▸ hp.2⟩

/-- An inner stage reads the rows it writes. -/
theorem inRows_readsWithin (hl : 10 ≤ l) (hs : lS l ≤ s) (hsl : s + 2 ≤ l) : ReadsWithin l s (inRows l R) := by
  obtain ⟨m, hm⟩ : 4 * 2 ^ (l - s - 2) ∣ nio l := by
    rw [nio, ← sub_lS hl, show 4 * 2 ^ (l - s - 2) = 2 ^ (l - s - 2 + 2) by rw [pow_add]; ring]
    exact Nat.pow_dvd_pow 2 (by omega)
  intro p hp i _ hnode
  have hdiv : i / nio l = p / nio l := by rw [hm, ← Nat.div_div_eq_div_mul, hnode, Nat.div_div_eq_div_mul]
  exact ⟨lt_nLen_of_node hsl hp.1 hnode, hdiv ▸ hp.2⟩

/-! ### The transforms -/

/-- The stages of a list keep two vectors the same on positions that each stage reads to write them. -/
theorem SameSamples.foldl_stage {f : Array (Cx α) → Nat → Array (Cx α)} {ss : List Nat}
    (h : SameSamples A D u v)
    (hf : ∀ s ∈ ss, ∀ u v, SameSamples A D u v → SameSamples A D (f u s) (f v s)) :
    SameSamples A D (ss.foldl f u) (ss.foldl f v) :=
  List.foldl_rel h hf

theorem SameSamples.forwardStage (hsl : s + 2 ≤ l) (hD : ReadsWithin l s D) (h : SameSamples A D u v) :
    SameSamples A D (forwardStage A k (nLen l) u s) (forwardStage A k (nLen l) v s) :=
  .tabulate fun p hp => stage4At_congr (quarter_of_level hsl) (by positivity)
    fun i hcol hnode => h (hD p hp i hcol hnode)

theorem SameSamples.backwardStage (hsl : s + 2 ≤ l) (hD : ReadsWithin l s D) (h : SameSamples A D u v) :
    SameSamples A D (backwardStage A k (nLen l) u s) (backwardStage A k (nLen l) v s) :=
  .tabulate fun p hp => stage4At_congr (quarter_of_level hsl) (by positivity)
    fun i hcol hnode => h (hD p hp i hcol hnode)

theorem SameSamples.forwardTop (hl : 10 ≤ l) (h : SameSamples A (inColumns l C) u v) :
    SameSamples A (inColumns l C) (forwardTop A k (nLen l) (lS l) u) (forwardTop A k (nLen l) (lS l) v) := by
  have hls := four_le_lS hl
  have hread {m p i : Nat} (hm : l - lS l ≤ m) (hp : p ∈ inColumns l C) (hi : i < nLen l)
      (hcol : i % 2 ^ m = p % 2 ^ m) : sampleAt A u i = sampleAt A v i :=
    h ⟨hi, mod_nio_of_mod_pow hl hm hcol ▸ hp.2⟩
  simp only [Machine.forwardTop]
  split
  · exact .tabulate fun p hp => top4At_congr (q := 2 ^ (l - 2))
      (by simpa using quarter_of_level (l := l) (s := 0) (by omega)) (by positivity)
      fun i hi hcol => hread (by omega) hp hi hcol
  · exact .tabulate fun p hp => top8At_congr (nLen_eq_eighths (by omega)) (by positivity)
      fun i hi hcol => hread (by omega) hp hi hcol

theorem le_lS_of_mem_outerLevels (hl : 10 ≤ l) : ∀ s ∈ outerLevels (lS l), s + 2 ≤ lS l := by
  have := four_le_lS hl
  simp only [outerLevels, List.forall_mem_map, List.mem_range]
  split <;> omega

theorem lS_le_of_mem_innerLevels : ∀ s ∈ innerLevels l (lS l), lS l ≤ s := by
  simp only [innerLevels, List.forall_mem_map, List.mem_range]
  omega

/-- The forward outer transform of a column is that of its samples (41_butterflies.md R131). -/
theorem SameSamples.forwardOuter (hl : 10 ≤ l) (h : SameSamples A (inColumns l C) u v) :
    SameSamples A (inColumns l C) (forwardOuter A k l (lS l) u) (forwardOuter A k l (lS l) v) :=
  (h.forwardTop A k hl).foldl_stage A fun s hs _ _ huv =>
    have hsl := le_lS_of_mem_outerLevels hl s hs
    huv.forwardStage A k (hsl.trans (lS_le l)) (inColumns_readsWithin hl hsl)

/-- The inner transforms of a row are those of its samples (41_butterflies.md R131). -/
theorem SameSamples.forwardInner (hl : 10 ≤ l) (h : SameSamples A (inRows l R) u v) :
    SameSamples A (inRows l R) (forwardInner A k l (lS l) u) (forwardInner A k l (lS l) v) :=
  h.foldl_stage A fun s hs _ _ huv =>
    have hsl := (of_mem_innerLevels hl s hs).2
    huv.forwardStage A k hsl (inRows_readsWithin hl (lS_le_of_mem_innerLevels s hs) hsl)

theorem SameSamples.inverseInner (hl : 10 ≤ l) (h : SameSamples A (inRows l R) u v) :
    SameSamples A (inRows l R) (inverseInner A k l (lS l) u) (inverseInner A k l (lS l) v) :=
  h.foldl_stage A fun s hs _ _ huv =>
    have hs := List.mem_reverse.mp hs
    have hsl := (of_mem_innerLevels hl s hs).2
    huv.backwardStage A k hsl (inRows_readsWithin hl (lS_le_of_mem_innerLevels s hs) hsl)

end Reads

end Sys2Proof.Machine

/-!
PROOF. What the PEs own, and pass 1 by PE: a row's result is made of the rows of its pair alone, so the PEs
leave what one pass over all rows leaves (42_passes.md R155, R160; 20_memory.md R90, R93).
-/

namespace Sys2Proof.Machine

/-! ### Row pairs -/

section Pairs

variable {l row : Nat}

theorem rowPair_conj (hrow : row < rowsOf l) : rowPair l (rowsOf l - 1 - row) = rowPair l row := by
  simp only [rowPair]
  omega

/-- S is even, so that the row pairs are S/2 (42_passes.md R155). -/
theorem rowPair_lt (hl : 10 ≤ l) (hrow : row < rowsOf l) : rowPair l row < rowsOf l / 2 := by
  have heven : 2 ∣ rowsOf l := by
    rw [rowsOf_eq hl]
    exact dvd_pow_self 2 (by have := four_le_lS hl; omega)
  simp only [rowPair]
  omega

theorem monotone_firstPair (l t : Nat) : Monotone (firstPair l t) := monotone_share (rowsOf l / 2) t

theorem firstPair_zero (l t : Nat) : firstPair l t 0 = 0 := by rw [firstPair, Nat.zero_mul, Nat.zero_div]

theorem firstPair_last {t : Nat} (l : Nat) (ht : 0 < t) : firstPair l t t = rowsOf l / 2 :=
  Nat.mul_div_cancel_left _ ht

theorem ownsRow_iff {t pe : Nat} :
    ownsRow l t pe row = true ↔
      firstPair l t pe ≤ rowPair l row ∧ rowPair l row < firstPair l t (pe + 1) := by
  rw [ownsRow, Bool.and_eq_true, decide_eq_true_iff, decide_eq_true_iff]

theorem existsUnique_rowOwner {t : Nat} (hl : 10 ≤ l) (ht : 0 < t) (hrow : row < rowsOf l) :
    ∃! pe, pe < t ∧ firstPair l t pe ≤ rowPair l row ∧ rowPair l row < firstPair l t (pe + 1) :=
  existsUnique_block (monotone_firstPair l t) (by rw [firstPair_zero]; exact Nat.zero_le _)
    (by rw [firstPair_last l ht]; exact rowPair_lt hl hrow)

end Pairs

/-! ### Pass 1 row by row -/

theorem div_nio_lt {l k : Nat} (hl : 10 ≤ l) (hk : k < nLen l) : k / nio l < rowsOf l := by
  rwa [Nat.div_lt_iff_lt_mul (nio_pos l), Nat.mul_comm, nio_mul_rowsOf hl]

/-- Index j's conjugate index N − 1 − j lies in the conjugate row (41_butterflies.md R131). -/
theorem conjIndex_div {l j : Nat} (hl : 10 ≤ l) (hj : j < nLen l) :
    (nLen l - 1 - j) / nio l = rowsOf l - 1 - j / nio l := by
  rw [← nio_mul_rowsOf hl] at hj ⊢
  rw [show nio l * rowsOf l - 1 - j = nio l * rowsOf l - (j + 1) by omega, Nat.mul_sub_div _ _ _ hj]
  omega

/-- The rows of a map's result are made of the same rows of its argument, if these hold their conjugates. -/
def RowLocal (l : Nat) (f : Samples → Samples) : Prop :=
  ∀ R : Set Nat, (∀ row ∈ R, row < rowsOf l → rowsOf l - 1 - row ∈ R) →
    ∀ u v, SameSamples f64Arith (inRows l R) u v → SameSamples f64Arith (inRows l R) (f u) (f v)

theorem conjIndex_mem_inRows {l j : Nat} {R : Set Nat} (hl : 10 ≤ l)
    (hR : ∀ row ∈ R, row < rowsOf l → rowsOf l - 1 - row ∈ R) (hj : j ∈ inRows l R) :
    nLen l - 1 - j ∈ inRows l R := by
  obtain ⟨hlt, hrow⟩ := hj
  refine ⟨by omega, ?_⟩
  rw [conjIndex_div hl hlt]
  exact hR _ hrow (div_nio_lt hl hlt)

/-- The inner transforms around a pointwise stage keep within a row and its conjugate (42_passes.md R155). -/
theorem rowLocal_pointwise {l : Nat} (hl : 10 ≤ l) (f : Nat → Cx F64 → Cx F64 → Cx F64) :
    RowLocal l fun z => inverseInner f64Arith f64Roots l (lS l) (tabulate (nLen l) fun j =>
      f j (sampleAt f64Arith (innerImage l z) j) (sampleAt f64Arith (innerImage l z) (nLen l - 1 - j))) := by
  intro R hR u v huv
  have hinner : SameSamples f64Arith (inRows l R) (innerImage l u) (innerImage l v) :=
    huv.forwardInner f64Arith f64Roots hl
  refine SameSamples.inverseInner f64Arith f64Roots hl (.tabulate fun j hj => ?_)
  rw [hinner hj, hinner (conjIndex_mem_inRows hl hR hj)]

theorem rowLocal_squareRows {l : Nat} (hl : 10 ≤ l) : RowLocal l (squareRows l) :=
  rowLocal_pointwise hl fun j => pointwiseSquare f64Arith f64Half f64Two (f64Rho l j)

theorem rowLocal_mulRows {l : Nat} (hl : 10 ≤ l) (zp : Samples) : RowLocal l (mulRows l zp) :=
  rowLocal_pointwise hl fun j u uc => pointwiseMul f64Arith f64Half (f64Rho l j) u uc
    (sampleAt f64Arith zp j) (sampleAt f64Arith zp (nLen l - 1 - j))

/-- After the first m PEs the rows of their pairs are done and the others are as before. -/
theorem pass1_after {l t : Nat} {f : Samples → Samples} (hf : RowLocal l f) (z : Samples) (m : Nat) {k : Nat}
    (hk : k < nLen l) :
    sampleAt f64Arith ((List.range m).foldl (fun y pe => pass1Pe l t pe f y) z) k =
      if rowPair l (k / nio l) < firstPair l t m then sampleAt f64Arith (f z) k else sampleAt f64Arith z k := by
  induction m generalizing k with
  | zero => rw [firstPair_zero, if_neg (Nat.not_lt_zero _)]; rfl
  | succ m ih =>
    set y := (List.range m).foldl (fun y pe => pass1Pe l t pe f y) z
    have hmono := monotone_firstPair l t (Nat.le_add_right m 1)
    have hsame : SameSamples f64Arith (inRows l {row | firstPair l t m ≤ rowPair l row}) (f y) (f z) := by
      have hconj (row : Nat) (hle : firstPair l t m ≤ rowPair l row) (hrow : row < rowsOf l) :
          firstPair l t m ≤ rowPair l (rowsOf l - 1 - row) := by rwa [rowPair_conj hrow]
      refine hf _ hconj y z fun j ⟨hj, hrow⟩ => ?_
      rw [ih hj, if_neg (not_lt.mpr hrow)]
    rw [List.range_succ, List.foldl_append, List.foldl_cons, List.foldl_nil, pass1Pe_sample l t m f y k hk]
    split
    · next how =>
      obtain ⟨hlo, hhi⟩ := ownsRow_iff.mp how
      rw [if_pos hhi, hsame ⟨hk, hlo⟩]
    · next how =>
      rw [ownsRow_iff] at how
      rw [ih hk]
      congr 1
      rw [eq_iff_iff]
      omega

theorem samples_ext {n : Nat} {u v : Samples} (hu : u.size = n) (hv : v.size = n)
    (h : ∀ k < n, sampleAt f64Arith u k = sampleAt f64Arith v k) : u = v := by
  refine Array.ext (hu.trans hv.symm) fun k hku hkv => ?_
  simpa [sampleAt, hku, hkv] using h k (hu ▸ hku)

/-- Pass 1 leaves f's rows, whatever the number of PEs (20_memory.md R93). -/
theorem pass1By_eq {l t : Nat} (hl : 10 ≤ l) (ht : 0 < t) {f : Samples → Samples} (hf : RowLocal l f)
    (z : Samples) : pass1By l t f z = tabulate (nLen l) (sampleAt f64Arith (f z)) := by
  have hsize : (pass1By l t f z).size = nLen l := by
    obtain ⟨m, rfl⟩ := Nat.exists_eq_add_of_le' ht
    rw [pass1By, List.range_succ, List.foldl_append]
    exact tabulate_size _ _
  refine samples_ext hsize (tabulate_size _ _) fun k hk => ?_
  rw [sampleAt_tabulate, if_pos hk, pass1By, pass1_after hf z t hk, firstPair_last l ht,
    if_pos (rowPair_lt hl (div_nio_lt hl hk))]

/-! ### The tiles of pass 2 -/

theorem tilePosition_group {l lh row i : Nat} (hlh : lh < g8 l) (hi : i < 8) :
    tilePosition (nio l) lh 0 row i % nio l / 8 = lh := by
  have := eight_mul_g8 l
  rw [tilePosition, Nat.zero_add, Nat.add_assoc, Nat.add_comm, Nat.add_mul_mod_self_right,
    Nat.mod_eq_of_lt (by omega)]
  omega

/-- Settles O55, by the blocks of column groups and of row pairs, and by pass 1's locality in a row pair. -/
theorem columnGroupsPartitioned : Obligations.ColumnGroupsPartitioned := by
  refine ⟨nio_eq, fun l t ht htg => ⟨fun lh lh' row row' i i' hlh hlh' hi hi' hne heq => hne ?_,
    fun hl _ row hrow => ⟨existsUnique_rowOwner hl ht hrow, fun pe _ => ⟨ownsRow_iff, ?_,
      fun f z k hk hkrow hown => ?_⟩⟩,
    fun hl _ z zp => ⟨?_, ?_⟩, fun _ => rfl, firstGroup_zero l t, firstGroup_last ht,
    fun pe _ => firstGroup_lt_succ ht htg pe, fun lh hlh => groupOwner_spec ht hlh⟩⟩
  · rw [← tilePosition_group hlh hi (row := row), heq, tilePosition_group hlh' hi']
  · rw [ownsRow, ownsRow, rowPair_conj hrow]
  · rw [pass1Pe_sample l t pe f z k hk, hkrow, hown]
    rfl
  · rw [pass1Square, pass1Square, pass1By_eq hl ht (rowLocal_squareRows hl),
      pass1By_eq hl Nat.one_pos (rowLocal_squareRows hl)]
  · rw [pass1Mul, pass1Mul, pass1By_eq hl ht (rowLocal_mulRows hl zp),
      pass1By_eq hl Nat.one_pos (rowLocal_mulRows hl zp)]

end Sys2Proof.Machine

/-!
SUPPORT. An integer below 2^53 in magnitude is a binary64 value: its digits are kept by the stored form (z, +0.0)
of pass 2 (42_passes.md R165).
-/

namespace Sys2Proof.Machine

theorem f64Pack_toNat (neg : Bool) {mag : Nat} (h : mag < 2 ^ 63) :
    (f64Pack neg mag).toNat = mag + if neg then 2 ^ 63 else 0 := by
  rw [f64Pack, BitVec.toNat_ofNat]
  split <;> omega

theorem f64Mag_pack (neg : Bool) {mag : Nat} (h : mag < 2 ^ 63) : f64Mag (f64Pack neg mag) = mag := by
  rw [f64Mag, f64Pack_toNat neg h]
  split <;> omega

theorem msb_pack (neg : Bool) {mag : Nat} (h : mag < 2 ^ 63) : (f64Pack neg mag).msb = neg := by
  rw [BitVec.msb_eq_decide, f64Pack_toNat neg h]
  cases neg with
  | false => exact decide_eq_false (by simpa using h)
  | true => exact decide_eq_true (by simp)

/-- The mantissa of m shifted to 53 bits. -/
theorem shifted_mantissa {m : Nat} (h0 : m ≠ 0) (h : m < 2 ^ 53) :
    Nat.log2 m ≤ 52 ∧ 2 ^ 52 ≤ m * 2 ^ (52 - Nat.log2 m) ∧ m * 2 ^ (52 - Nat.log2 m) < 2 ^ 53 := by
  have hlog : Nat.log2 m ≤ 52 := Nat.le_of_lt_succ ((Nat.log2_lt h0).mpr h)
  have hsplit : 2 ^ Nat.log2 m * 2 ^ (52 - Nat.log2 m) = 2 ^ 52 := by
    rw [← pow_add, Nat.add_sub_cancel' hlog]
  have hlo := Nat.mul_le_mul_right (2 ^ (52 - Nat.log2 m)) (Nat.log2_self_le h0)
  have hhi := Nat.mul_lt_mul_of_pos_right (Nat.lt_log2_self (n := m)) (Nat.two_pow_pos (52 - Nat.log2 m))
  rw [pow_succ, Nat.mul_right_comm] at hhi
  refine ⟨hlog, ?_, ?_⟩ <;> omega

/-- RN64 of an integer below 2^53 in magnitude shifts its mantissa and rounds nothing. -/
theorem f64Round_of_lt (neg : Bool) {m : Nat} (h0 : m ≠ 0) (h : m < 2 ^ 53) :
    f64Round neg m 0 = f64Pack neg ((Nat.log2 m + 1022) * 2 ^ 52 + m * 2 ^ (52 - Nat.log2 m)) := by
  obtain ⟨hlog, hlo, hhi⟩ := shifted_mantissa h0 h
  have hexp : max ((0 : Int) + (Nat.log2 m : Int) - 52) (-1074) = (Nat.log2 m : Int) - 52 := by omega
  have hshift : (0 - ((Nat.log2 m : Int) - 52)).toNat = 52 - Nat.log2 m := by omega
  have hbias : ((Nat.log2 m : Int) - 52 + 1074).toNat = Nat.log2 m + 1022 := by omega
  have hle : (Nat.log2 m : Int) - 52 ≤ 0 := by omega
  simp only [f64Round, if_neg h0, hexp, if_pos hle, hshift, hbias]
  rw [Nat.min_eq_left]
  rw [infMag]
  omega

theorem f64ToInt_f64OfInt {d : Int} (h : d.natAbs < 2 ^ 53) : f64ToInt (f64OfInt d) = d := by
  obtain rfl | hd := eq_or_ne d 0
  · have hzero : f64SMan (f64OfInt 0) = 0 := by decide
    rw [f64ToInt, hzero, Int.zero_mul, Int.zero_ediv, ite_self]
  have h0 : d.natAbs ≠ 0 := Int.natAbs_ne_zero.mpr hd
  obtain ⟨hlog, hlo, hhi⟩ := shifted_mantissa h0 h
  set s := 52 - Nat.log2 d.natAbs with hs
  set mag := (Nat.log2 d.natAbs + 1022) * 2 ^ 52 + d.natAbs * 2 ^ s with hmag
  have hlt : mag < 2 ^ 63 := by omega
  have hx : f64OfInt d = f64Pack (decide (d < 0)) mag := f64Round_of_lt _ h0 h
  have hexp : f64Exp (f64OfInt d) = -(s : Int) := by
    have hex : mag / 2 ^ 52 = Nat.log2 d.natAbs + 1023 := by omega
    simp only [f64Exp, hx, f64Mag_pack _ hlt, hex]
    omega
  have hman : f64Man (f64OfInt d) = d.natAbs * 2 ^ s := by
    simp only [f64Man, hx, f64Mag_pack _ hlt]
    split <;> omega
  have hsman : f64SMan (f64OfInt d) = d * 2 ^ s := by
    rw [f64SMan, hman, hx, msb_pack _ hlt]
    push_cast
    split
    · next hneg => rw [abs_of_neg (of_decide_eq_true hneg)]; ring
    · next hneg => rw [abs_of_nonneg (by simpa using hneg)]
  rw [f64ToInt, hexp, hsman]
  split
  · next hs0 =>
    obtain hs0 : s = 0 := by omega
    simp [hs0]
  · rw [neg_neg, Int.toNat_natCast, Int.mul_ediv_cancel _ (by positivity)]

end Sys2Proof.Machine

/-!
PROOF. What the passes leave in Z: pass 2 leaves the image of its digits in every column group but a PE's first,
pass 2_1 that of the stitched digits there, and the outer transform keeps columns apart (42_passes.md R161, R165,
R170, R174).
-/

namespace Sys2Proof.Machine

theorem tabulate_congr {β : Type} {n : Nat} {f g : Nat → β} (h : ∀ k < n, f k = g k) :
    tabulate n f = tabulate n g := by
  rw [tabulate, tabulate, List.map_congr_left fun k hk => h k (List.mem_range.mp hk)]

/-! ### The outer image of digits -/

theorem forwardOuter_size {α : Type} (A : Arith α) (k : Roots α) (l ls : Nat) (u : Array (Cx α)) :
    (forwardOuter A k l ls u).size = nLen l := by
  refine List.foldlRecOn (motive := fun u : Array (Cx α) => u.size = nLen l) _ _ ?_
    fun _ _ _ _ => tabulate_size _ _
  rw [forwardTop]
  split <;> exact tabulate_size _ _

theorem outerImage_congr (ev : Evaluator) {l : Nat} {z w : Nat → Int} (h : ∀ k < nLen l, z k = w k) :
    outerImage ev l z = outerImage ev l w := by
  rw [outerImage, outerImage, tabulate_congr fun k hk => by rw [h k hk]]

/-- The image of digits in a column is made of the digits of that column. -/
theorem outerImage_sameColumns (ev : Evaluator) {l : Nat} (hl : 10 ≤ l) {C : Set Nat} {z w : Nat → Int}
    (h : ∀ k ∈ inColumns l C, z k = w k) :
    SameSamples f64Arith (inColumns l C) (outerImage ev l z) (outerImage ev l w) :=
  SameSamples.forwardOuter f64Arith f64Roots hl (.tabulate fun k hk => by rw [h k hk])

/-- The columns that lie in the first column group of their PE, or those that do not. -/
def firstColumns (l t : Nat) (first : Bool) : Set Nat := {c | inFirstGroup l t c = first}

theorem mem_inColumns_first {l t k : Nat} {first : Bool} :
    k ∈ inColumns l (firstColumns l t first) ↔ k < nLen l ∧ inFirstGroup l t k = first := by
  simp only [inColumns, firstColumns, Set.mem_ofPred_eq, inFirstGroup, Nat.mod_mod]

/-! ### Pass 2 -/

theorem peStart_lt_nLen {l t row pe i : Nat} (hl : 10 ≤ l) (hrow : row < rowsOf l) (hpe : pe < t)
    (hi : peStart l t row pe + i < peStart l t row (pe + 1)) : peStart l t row pe + i < nLen l := by
  have hle := monotone_peStart l t row (show pe + 1 ≤ t from hpe)
  have hrows := Nat.mul_le_mul_right (nio l) (Nat.succ_le_of_lt hrow)
  rw [peStart_last (by omega)] at hle
  rw [← nio_mul_rowsOf hl, Nat.mul_comm]
  exact hi.trans_le (hle.trans hrows)

/-- The carry reads the inputs of the image and no other. -/
theorem carryTable_congr (W : LaneWidth) (b g : Nat) {l t : Nat} (hl : 10 ≤ l) {o o' : Nat → Int}
    (h : ∀ k < nLen l, o k = o' k) : carryTable W b g l t o = carryTable W b g l t o' := by
  refine tabulate_congr fun pe hpe => tabulate_congr fun row hrow => ?_
  have hinputs : peRowInputs W l t pe row o = peRowInputs W l t pe row o' := by
    rw [peRowInputs_eq, peRowInputs_eq]
    refine List.map_congr_left fun i hi => h _ (peStart_lt_nLen hl hrow hpe ?_)
    have := List.mem_range.mp hi
    omega
  rw [hinputs]

/-- A digit of pass 2 is exact in its stored form (42_passes.md R165). -/
theorem carryDigit_stored (W : LaneWidth) {b : Nat} (g : Nat) {l t k : Nat} (o : Nat → Int) (hb : 0 < b)
    (hb32 : b < 2 ^ 32) (hl : 10 ≤ l) (ht : 0 < t) (hk : k < nLen l) :
    f64ToInt (f64OfInt (carryDigit l t (carryTable W b g l t o) k)) =
      carryDigit l t (carryTable W b g l t o) k := by
  obtain ⟨row, pe, i, hrow, hpe, hi, rfl⟩ := exists_peStart ht hl hk
  have hlen := peRun_length W b g l t o pe row
  have hmem : (peRun W b g l t o pe row).1.getD i 0 ∈ (peRun W b g l t o pe row).1 := by
    rw [List.getD_eq_getElem _ _ (by omega)]
    exact List.getElem_mem _
  have hdigit := carryRun_digit hb g 0 _ _ hmem
  rw [carryDigit_peStart W b g o hrow hpe hi]
  exact f64ToInt_f64OfInt (by omega)

/-- The rounded carry inputs of pass 2, from the image pass 1 leaves (42_passes.md R161, R163). -/
def carryInputs (ev : Evaluator) (l : Nat) (z1 : Samples) (k : Nat) : Int :=
  sampleRound ev l (sampleAt f64Arith (inverseOuter f64Arith f64Roots l (lS l) z1) k)

section Passes

variable (W : LaneWidth) (ev : Evaluator) (g : Nat) {l t : Nat} (z1 : Samples) (hl : 10 ≤ l)
include hl

theorem carryTable_pass2 :
    carryTable W ev.b g l t (fun k => (tabulate (nLen l) (carryInputs ev l z1)).getD k 0) =
      carryTable W ev.b g l t (carryInputs ev l z1) :=
  carryTable_congr W ev.b g hl fun k hk => by rw [tabulate_getD, if_pos hk]

theorem pass2_slots :
    (pass2 W ev l t g z1).slots = carrySlots l t (carryTable W ev.b g l t (carryInputs ev l z1)) :=
  congrArg (carrySlots l t) (carryTable_pass2 W ev g z1 hl)

/-- Pass 2 leaves the digits of the PEs' first column groups as they are and the image of the others
(42_passes.md R161, R165). -/
theorem pass2_sample {k : Nat} (hk : k < nLen l) :
    sampleAt f64Arith (pass2 W ev l t g z1).z k =
      if inFirstGroup l t k then
        ⟨f64OfInt (carryDigit l t (carryTable W ev.b g l t (carryInputs ev l z1)) k), 0⟩
      else sampleAt f64Arith
        (outerImage ev l (carryDigit l t (carryTable W ev.b g l t (carryInputs ev l z1)))) k := by
  have hdigits (z : Nat → Int) (k : Nat) (hk : k < nLen l) : (tabulate (nLen l) z).getD k 0 = z k := by
    rw [tabulate_getD, if_pos hk]
  rw [← carryTable_pass2 W ev g z1 hl]
  set z := carryDigit l t
    (carryTable W ev.b g l t fun k => (tabulate (nLen l) (carryInputs ev l z1)).getD k 0) with hz
  rw [← outerImage_congr ev (hdigits z), ← hdigits z k hk]
  exact (sampleAt_tabulate ..).trans (if_pos hk)

variable (hb : 0 < ev.b) (hb32 : ev.b < 2 ^ 32) (ht : 0 < t) (htg : t ≤ g8 l)
include hb hb32 ht htg

/-- Pass 2_1 leaves the stitched digits of pass 2 in the PEs' first column groups (42_passes.md R170). -/
theorem pass21_digit {k : Nat} (hk : k < nLen l) (hfirst : inFirstGroup l t k = true) :
    stitchDigit W l t
        (stitchTable W ev.b l t (fun k => f64ToInt (sampleAt f64Arith (pass2 W ev l t g z1).z k).re)
          (pass2 W ev l t g z1).slots) (fun _ => 0) k =
      stitchedDigits W ev.b g l t (carryInputs ev l z1) k := by
  obtain ⟨row, pe, q, hrow, hpe, hi, rfl⟩ := exists_peStart ht hl hk
  rw [inFirstGroup_peStart hpe hi, decide_eq_true_eq] at hfirst
  have hread (j : Nat) (hj : j < 8) :
      f64ToInt (sampleAt f64Arith (pass2 W ev l t g z1).z (peStart l t row pe + j)).re =
        carryDigit l t (carryTable W ev.b g l t (carryInputs ev l z1)) (peStart l t row pe + j) := by
    have hwidth := peStart_sub l t row pe
    have hgroup := firstGroup_lt_succ ht htg pe
    have hij : peStart l t row pe + j < peStart l t row (pe + 1) := by omega
    have hlt := peStart_lt_nLen hl hrow hpe hij
    rw [pass2_sample W ev g z1 hl hlt, inFirstGroup_peStart hpe hij, if_pos (decide_eq_true hj)]
    exact carryDigit_stored W g _ hb hb32 hl ht hlt
  rw [pass2_slots W ev g z1 hl, stitchedDigits, stitchDigit_first W ev.b hl hrow hpe hfirst hi,
    stitchDigit_first W ev.b hl hrow hpe hfirst hi,
    List.map_congr_left fun j hj => hread j (List.mem_range.mp hj)]

/-- Every column group of Z holds the image of the stitched digits (42_passes.md R174). -/
theorem runPasses_image :
    (runPasses W ev l t g z1).1 = outerImage ev l (stitchedDigits W ev.b g l t (carryInputs ev l z1)) := by
  refine samples_ext (tabulate_size _ _) (forwardOuter_size _ _ _ _ _) fun k hk => ?_
  refine (sampleAt_tabulate ..).trans ((if_pos hk).trans ?_)
  split
  · next hfirst =>
    refine outerImage_sameColumns ev hl (C := firstColumns l t true) (fun i hi => ?_)
      (mem_inColumns_first.mpr ⟨hk, hfirst⟩)
    obtain ⟨hi, hfirst⟩ := mem_inColumns_first.mp hi
    rw [if_pos hfirst, pass21_digit W ev g z1 hl hb hb32 ht htg hi hfirst]
  · next hfirst =>
    rw [Bool.not_eq_true] at hfirst
    rw [pass2_sample W ev g z1 hl hk, hfirst, if_neg Bool.false_ne_true]
    refine outerImage_sameColumns ev hl (C := firstColumns l t false) (fun i hi => ?_)
      (mem_inColumns_first.mpr ⟨hk, hfirst⟩)
    exact (stitchDigit_outside W (mem_inColumns_first.mp hi).2 _ _).symm

end Passes

/-- Settles O48: the blocks' carries cancel modulo n, and each column group's image is made of its own digits. -/
theorem passesKeepValue : Obligations.PassesKeepValue :=
  ⟨fun W b g _ _ o _ hl _ ht htg => stitchedDigits_modEq W b g o hl ht htg,
    fun W ev g _ _ z1 hb hb32 hl _ ht htg => runPasses_image W ev g z1 hl hb hb32 ht htg⟩

end Sys2Proof.Machine

/-!
SUPPORT. Digits in [0, b) and their sum, and what one propagation of a carry does: it divides the sum by b^N, the
digits left are the remainder's and the quotient is the carry out (43_residue.md R180).
-/

namespace Sys2Proof.Machine

/-! ### Expansions -/

/-- Canonical digits: N digits in [0, b) (43_residue.md R181). -/
structure IsExpansion (b n : Nat) (ds : List Int) : Prop where
  length : ds.length = n
  digit : ∀ z ∈ ds, 0 ≤ z ∧ z < b

theorem IsExpansion.cons {b n : Nat} {d : Int} {ds : List Int} (hlo : 0 ≤ d) (hhi : d < b)
    (h : IsExpansion b n ds) : IsExpansion b (n + 1) (d :: ds) :=
  ⟨congrArg Nat.succ h.length, List.forall_mem_cons.mpr ⟨⟨hlo, hhi⟩, h.digit⟩⟩

/-- The sum of N canonical digits lies in [0, b^N). -/
theorem IsExpansion.digitSum_mem {b n : Nat} {ds : List Int} (h : IsExpansion b n ds) :
    0 ≤ digitSum b ds ∧ digitSum b ds < (b : Int) ^ n := by
  obtain ⟨rfl, hdigit⟩ := h
  induction ds with
  | nil => simp [digitSum]
  | cons d ds ih =>
    obtain ⟨⟨hlo, hhi⟩, hds⟩ := List.forall_mem_cons.mp hdigit
    obtain ⟨ihlo, ihhi⟩ := ih hds
    rw [digitSum, List.length_cons, pow_succ]
    constructor <;> nlinarith

theorem digitSum_eq_zero (b : Nat) {ds : List Int} (h : ∀ d ∈ ds, d = 0) : digitSum b ds = 0 := by
  induction ds with
  | nil => rfl
  | cons d ds ih =>
    obtain ⟨rfl, hds⟩ := List.forall_mem_cons.mp h
    rw [digitSum, ih hds, mul_zero, add_zero]

/-! ### One propagation -/

theorem propagate_cons (b : Nat) (f z : Int) (zs : List Int) :
    propagate b f (z :: zs) =
      ((z + f) % b :: (propagate b ((z + f) / b) zs).1, (propagate b ((z + f) / b) zs).2) := rfl

theorem propagate_isExpansion {b : Nat} (hb : 0 < b) (f : Int) (zs : List Int) :
    IsExpansion b zs.length (propagate b f zs).1 := by
  induction zs generalizing f with
  | nil => exact ⟨rfl, fun _ h => absurd h List.not_mem_nil⟩
  | cons z zs ih =>
    exact (ih ((z + f) / b)).cons (Int.emod_nonneg _ (by omega)) (Int.emod_lt_of_pos _ (by omega))

theorem propagate_sum (b : Nat) (f : Int) (zs : List Int) :
    digitSum b (propagate b f zs).1 + (b : Int) ^ zs.length * (propagate b f zs).2 = f + digitSum b zs := by
  induction zs generalizing f with
  | nil => simp [propagate, digitSum]
  | cons z zs ih =>
    have hstep := Int.emod_add_mul_ediv (z + f) b
    rw [propagate_cons, digitSum, digitSum, List.length_cons, pow_succ]
    linear_combination hstep + (b : Int) * ih ((z + f) / b)

/-- The carry out is the quotient of the sum by b^N. -/
theorem propagate_carry_eq {b : Nat} (hb : 0 < b) (f : Int) (zs : List Int) :
    (propagate b f zs).2 = (f + digitSum b zs) / (b : Int) ^ zs.length :=
  ((Int.ediv_emod_unique (show (0 : Int) < (b : Int) ^ zs.length by positivity)).mpr
    ⟨propagate_sum b f zs, (propagate_isExpansion hb f zs).digitSum_mem⟩).1.symm

/-- A bound of the digits' magnitudes bounds the carry too, since (m + m)/b ≤ m (43_residue.md R181). -/
theorem propagate_carry_natAbs_le {b m : Nat} (hb : 2 ≤ b) {zs : List Int} (hzs : ∀ z ∈ zs, z.natAbs ≤ m)
    {f : Int} (hf : f.natAbs ≤ m) : (propagate b f zs).2.natAbs ≤ m := by
  induction zs generalizing f with
  | nil => exact hf
  | cons z zs ih =>
    obtain ⟨hz, hzs⟩ := List.forall_mem_cons.mp hzs
    refine ih hzs ?_
    have htwo : 2 * (m : Int) ≤ m * b := by nlinarith
    have hlo : -(m : Int) ≤ (z + f) / b := Int.le_ediv_of_mul_le (by omega) (by rw [neg_mul]; omega)
    have hhi : (z + f) / b ≤ m := Int.ediv_le_of_le_mul (by omega) (by omega)
    omega

end Sys2Proof.Machine

/-!
PROOF. The attempts of `unbalance`: each keeps the residue of the sum it is entered with, and the third meets only
sums in [−1, b^N], of which −1 and b^N alone are not sums of canonical digits; both are the residue −1
(43_residue.md R180, R181).
-/

namespace Sys2Proof.Machine

/-! ### The attempts -/

theorem unbalanceFrom_succ (b fuel : Nat) (f : Int) (zs : List Int) :
    unbalanceFrom b (fuel + 1) f zs =
      if (propagate b f zs).2 = 0 then ⟨(propagate b f zs).1, false⟩
      else unbalanceFrom b fuel (-(propagate b f zs).2) (propagate b f zs).1 := rfl

/-- A further attempt gives digits when the attempts it leaves do. -/
theorem unbalanceFrom_m1_of_next {b fuel : Nat} {f : Int} {zs : List Int}
    (h : (propagate b f zs).2 ≠ 0 →
      (unbalanceFrom b fuel (-(propagate b f zs).2) (propagate b f zs).1).m1 = false) :
    (unbalanceFrom b (fuel + 1) f zs).m1 = false := by
  rw [unbalanceFrom_succ]
  split
  · rfl
  · next hcarry => exact h hcarry

/-- The carry enters the next attempt negated, which keeps the residue: b^N = −1 modulo n = b^N + 1. -/
theorem propagate_next_modEq (b : Nat) (f : Int) (zs : List Int) :
    -(propagate b f zs).2 + digitSum b (propagate b f zs).1 ≡ f + digitSum b zs
      [ZMOD (b : Int) ^ zs.length + 1] :=
  Int.modEq_iff_dvd.mpr ⟨(propagate b f zs).2, by linear_combination -propagate_sum b f zs⟩

/-- The result is the special form, or canonical digits of the residue of the sum. -/
theorem unbalanceFrom_cases {b : Nat} (hb : 0 < b) (fuel : Nat) (f : Int) (zs : List Int) :
    unbalanceFrom b fuel f zs = specialForm zs.length ∨
      (unbalanceFrom b fuel f zs).m1 = false ∧
      IsExpansion b zs.length (unbalanceFrom b fuel f zs).digits ∧
      digitSum b (unbalanceFrom b fuel f zs).digits ≡ f + digitSum b zs [ZMOD (b : Int) ^ zs.length + 1] := by
  induction fuel generalizing f zs with
  | zero => exact .inl rfl
  | succ fuel ih =>
    have hexp := propagate_isExpansion hb f zs
    rw [unbalanceFrom_succ]
    split
    · next hcarry =>
      have hsum := propagate_next_modEq b f zs
      rw [hcarry, neg_zero, zero_add] at hsum
      exact .inr ⟨rfl, hexp, hsum⟩
    · have hnext := ih (-(propagate b f zs).2) (propagate b f zs).1
      rw [hexp.length] at hnext
      exact hnext.imp_right fun ⟨hm1, hdigits, hsum⟩ =>
        ⟨hm1, hdigits, hsum.trans (propagate_next_modEq b f zs)⟩

/-- An attempt whose sum has N canonical digits carries nothing out. -/
theorem unbalanceFrom_m1_of_mem {b : Nat} (hb : 0 < b) (fuel : Nat) {f : Int} {zs : List Int}
    (hlo : 0 ≤ f + digitSum b zs) (hhi : f + digitSum b zs < (b : Int) ^ zs.length) :
    (unbalanceFrom b (fuel + 1) f zs).m1 = false :=
  unbalanceFrom_m1_of_next fun hcarry =>
    absurd ((propagate_carry_eq hb f zs).trans (Int.ediv_eq_zero_of_lt hlo hhi)) hcarry

/-- Of the sums in [−1, b^N], −1 and b^N alone have no N canonical digits, and both are the residue −1. -/
theorem mem_digits_of_not_modEq {B x : Int} (hlo : -1 ≤ x) (hhi : x ≤ B) (hx : ¬ x ≡ B [ZMOD B + 1]) :
    0 ≤ x ∧ x < B := by
  have hneg : x ≠ -1 := by
    rintro rfl
    exact hx (Int.modEq_iff_dvd.mpr ⟨1, by ring⟩)
  have htop : x ≠ B := by
    rintro rfl
    exact hx (Int.ModEq.refl _)
  omega

/-- The last two attempts suffice for a sum in [−b^N, 2·b^N) other than the residue −1 (43_residue.md R181). -/
theorem unbalanceFrom_two_m1 {b : Nat} (hb : 0 < b) {f : Int} {zs : List Int}
    (hlo : -(b : Int) ^ zs.length ≤ f + digitSum b zs) (hhi : f + digitSum b zs < 2 * (b : Int) ^ zs.length)
    (hx : ¬ f + digitSum b zs ≡ (b : Int) ^ zs.length [ZMOD (b : Int) ^ zs.length + 1]) :
    (unbalanceFrom b 2 f zs).m1 = false := by
  refine unbalanceFrom_m1_of_next fun hcarry => ?_
  have hexp := propagate_isExpansion hb f zs
  obtain ⟨hDlo, hDhi⟩ := hexp.digitSum_mem
  have hpos : (0 : Int) < (b : Int) ^ zs.length := by positivity
  have hcarry_lo : -1 ≤ (propagate b f zs).2 := by
    rw [propagate_carry_eq hb f zs]
    exact Int.le_ediv_of_mul_le hpos (by linarith)
  have hcarry_hi : (propagate b f zs).2 < 2 := by
    rw [propagate_carry_eq hb f zs]
    exact Int.ediv_lt_of_lt_mul hpos hhi
  obtain ⟨hnext_lo, hnext_hi⟩ := mem_digits_of_not_modEq
    (x := -(propagate b f zs).2 + digitSum b (propagate b f zs).1) (B := (b : Int) ^ zs.length)
    (by omega) (by omega) fun h => hx ((propagate_next_modEq b f zs).symm.trans h)
  exact unbalanceFrom_m1_of_mem hb 0 hnext_lo (hexp.length.symm ▸ hnext_hi)

/-- Three attempts suffice when the first carry is below b^N and the residue is not −1 (43_residue.md R181). -/
theorem unbalanceFrom_three_m1 {b : Nat} (hb : 0 < b) {f : Int} {zs : List Int}
    (hcarry : (propagate b f zs).2.natAbs < b ^ zs.length)
    (hx : ¬ f + digitSum b zs ≡ (b : Int) ^ zs.length [ZMOD (b : Int) ^ zs.length + 1]) :
    (unbalanceFrom b 3 f zs).m1 = false := by
  refine unbalanceFrom_m1_of_next fun _ => ?_
  have hexp := propagate_isExpansion hb f zs
  obtain ⟨hDlo, hDhi⟩ := hexp.digitSum_mem
  have habs : |(propagate b f zs).2| < (b : Int) ^ zs.length := by
    rw [Int.abs_eq_natAbs]
    exact_mod_cast hcarry
  obtain ⟨hcarry_lo, hcarry_hi⟩ := abs_lt.mp habs
  apply unbalanceFrom_two_m1 hb <;> rw [hexp.length]
  · linarith
  · linarith
  · exact fun h => hx ((propagate_next_modEq b f zs).symm.trans h)

/-- Digits below 2^63 carry less than b^N out of the first attempt, since N ≥ 1024 (43_residue.md R181). -/
theorem propagate_carry_lt {b : Nat} (hb : 2 ≤ b) {zs : List Int} (hlen : 1024 ≤ zs.length)
    (hzs : ∀ z ∈ zs, z.natAbs < 2 ^ 63) : (propagate b 0 zs).2.natAbs < b ^ zs.length :=
  calc (propagate b 0 zs).2.natAbs
      ≤ 2 ^ 63 := propagate_carry_natAbs_le hb (fun z hz => (hzs z hz).le) (Nat.zero_le _)
    _ < 2 ^ zs.length := Nat.pow_lt_pow_right (by omega) (by omega)
    _ ≤ b ^ zs.length := Nat.pow_le_pow_left hb _

/-- The sum of canonical digits is the residue of every sum congruent to it. -/
theorem IsExpansion.digitSum_eq_emod {b n : Nat} {ds : List Int} (h : IsExpansion b n ds) {x : Int}
    (hx : digitSum b ds ≡ x [ZMOD (b : Int) ^ n + 1]) : digitSum b ds = x % ((b : Int) ^ n + 1) := by
  obtain ⟨hlo, hhi⟩ := h.digitSum_mem
  rw [← hx, Int.emod_eq_of_lt hlo (by omega)]

/-- Settles O49: no attempt ends with digits of n − 1, and for every other residue one of the three does. -/
theorem unbalanceByValue : Obligations.UnbalanceByValue := by
  intro b zs hb hlen hzs
  have hb0 : 0 < b := by omega
  have hcases := unbalanceFrom_cases hb0 3 0 zs
  have hpos : (0 : Int) < (b : Int) ^ zs.length := by positivity
  rw [← unbalance, zero_add] at hcases
  obtain ⟨v, hv⟩ := Int.eq_ofNat_of_zero_le
    (Int.emod_nonneg (digitSum b zs) (show (b : Int) ^ zs.length + 1 ≠ 0 by omega))
  refine ⟨v, by push_cast; exact hv.symm, fun hne => ?_, fun heq => ?_⟩
  · have hm1 : (unbalance b zs).m1 = false := by
      refine unbalanceFrom_three_m1 hb0 (propagate_carry_lt hb hlen hzs) fun h => hne ?_
      rw [zero_add, Int.ModEq, hv, Int.emod_eq_of_lt hpos.le (by omega)] at h
      exact_mod_cast h
    obtain hspecial | ⟨-, hexp, hsum⟩ := hcases
    · rw [hspecial] at hm1
      cases hm1
    · exact ⟨hm1, hexp.length, (hexp.digitSum_eq_emod hsum).trans hv, hexp.digit⟩
  · refine hcases.resolve_right fun ⟨_, hexp, hsum⟩ => ?_
    have hlt := hexp.digitSum_mem.2
    rw [hexp.digitSum_eq_emod hsum, hv, heq] at hlt
    push_cast at hlt
    exact lt_irrefl _ hlt

end Sys2Proof.Machine

/-!
PROOF. The canonical form by value, the fingerprint and the is-one test (43_residue.md R181, R183 to R185).
-/

namespace Sys2Proof.Machine

/-! ### The canonical form -/

/-- Digits that are 0 after the first. -/
theorem map_range_eq_cons_zeros {f : Nat → Int} (hf : ∀ k, f (k + 1) = 0) (n : Nat) :
    (List.range (n + 1)).map f = f 0 :: List.replicate n 0 := by
  have htail : f ∘ Nat.succ = fun _ => 0 := funext hf
  rw [List.range_succ_eq_map, List.map_cons, List.map_map, htail, List.map_const', List.length_range]

/-- The special form is −1 and N − 1 zeros. -/
theorem specialForm_succ (n : Nat) : specialForm (n + 1) = ⟨-1 :: List.replicate n 0, true⟩ :=
  congrArg (Canon.mk · true) (map_range_eq_cons_zeros (fun k => if_neg k.succ_ne_zero) n)

theorem canonOf_pow (b n : Nat) : canonOf b n (b ^ n) = specialForm n := if_pos rfl

theorem canonOf_of_ne {b n v : Nat} (hv : v ≠ b ^ n) :
    canonOf b n v = ⟨(List.range n).map fun k => ((v / b ^ k % b : Nat) : Int), false⟩ := if_neg hv

/-- The digits (v div b^k) mod b of k < n sum to v mod b^n. -/
theorem digitSum_quotients (b n v : Nat) :
    digitSum b ((List.range n).map fun k => ((v / b ^ k % b : Nat) : Int)) = (v % b ^ n : Nat) := by
  induction n with
  | zero => simp [digitSum, Nat.mod_one]
  | succ n ih =>
    rw [List.range_succ, List.map_append, digitSum_append, ih, List.length_map, List.length_range,
      Nat.mod_pow_succ]
    simp [digitSum]

/-- Settles O50: the digits are the quotients' remainders, and the special form is −1 and zeros. -/
theorem canonicalForm : Obligations.CanonicalForm := by
  intro b n v hb hn _
  refine ⟨canonOf_length b n v, fun hlt => ?_, ?_⟩
  · rw [canonOf_of_ne hlt.ne]
    refine ⟨rfl, by rw [digitSum_quotients, Nat.mod_eq_of_lt hlt], fun z hz => ?_⟩
    obtain ⟨k, -, rfl⟩ := List.mem_map.mp hz
    have := Nat.mod_lt (v / b ^ k) (show b > 0 by omega)
    omega
  · rintro rfl
    obtain ⟨n, rfl⟩ := Nat.exists_eq_add_one.mpr hn
    rw [canonOf_pow, specialForm_succ]
    exact ⟨rfl, rfl, fun z hz => List.eq_of_mem_replicate hz⟩

/-- The canonical form of 1 is 1 and N − 1 zeros. -/
theorem canonOf_one {b : Nat} (hb : 2 ≤ b) (n : Nat) :
    canonOf b (n + 1) 1 = ⟨1 :: List.replicate n 0, false⟩ := by
  have hpow (k : Nat) : 1 < b ^ (k + 1) := Nat.one_lt_pow k.succ_ne_zero hb
  have hzero (k : Nat) : ((1 / b ^ (k + 1) % b : Nat) : Int) = 0 := by
    rw [Nat.div_eq_of_lt (hpow k), Nat.zero_mod, Nat.cast_zero]
  have hhead : ((1 / b ^ 0 % b : Nat) : Int) = 1 := by
    rw [pow_zero, Nat.div_one, Nat.mod_eq_of_lt hb, Nat.cast_one]
  rw [canonOf_of_ne (hpow n).ne, map_range_eq_cons_zeros hzero, hhead]

/-! ### The fingerprint -/

/-- The first n bytes of x packed into one number, the first in the most significant place. -/
def packBytes (x : Nat → Nat) : Nat → Nat
  | 0 => 0
  | n + 1 => packBytes x n * 2 ^ 8 + x n

theorem packBytes_lt {x : Nat → Nat} (hx : ∀ i, x i < 2 ^ 8) (n : Nat) : packBytes x n < 2 ^ (8 * n) := by
  induction n with
  | zero => exact Nat.one_pos
  | succ n ih =>
    have hn := hx n
    rw [packBytes, Nat.mul_succ, pow_add]
    omega

/-- Packing gives each byte the weight of its place. -/
theorem sum_map_range_bytes (x : Nat → Nat) (n : Nat) :
    ((List.range n).map fun i => x i * 2 ^ (8 * (n - 1 - i))).sum = packBytes x n := by
  induction n with
  | zero => rfl
  | succ n ih =>
    have hweight : ∀ i ∈ List.range n,
        x i * 2 ^ (8 * (n + 1 - 1 - i)) = x i * 2 ^ (8 * (n - 1 - i)) * 2 ^ 8 := by
      intro i hi
      have hplace : 8 * (n + 1 - 1 - i) = 8 * (n - 1 - i) + 8 := by
        have := List.mem_range.mp hi
        omega
      rw [hplace, pow_add, mul_assoc]
    rw [List.range_succ, List.map_append, List.sum_append, List.map_congr_left hweight,
      List.sum_map_mul_right, ih]
    simp [packBytes]

/-- Byte i of n is read back n − 1 − i places from the last. -/
theorem packBytes_byte {x : Nat → Nat} (hx : ∀ i, x i < 2 ^ 8) {n i : Nat} (hi : i < n) :
    packBytes x n / 2 ^ (8 * (n - 1 - i)) % 2 ^ 8 = x i := by
  induction n with
  | zero => cases hi
  | succ n ih =>
    have hn := hx n
    rw [packBytes, Nat.add_sub_cancel]
    obtain rfl | hi := Nat.eq_or_lt_of_le (Nat.le_of_lt_succ hi)
    · rw [Nat.sub_self, Nat.mul_zero, pow_zero]
      omega
    · have hplace : 8 * (n - i) = 8 + 8 * (n - 1 - i) := by omega
      have hlast : (packBytes x n * 2 ^ 8 + x n) / 2 ^ 8 = packBytes x n := by omega
      rw [hplace, pow_add, ← Nat.div_div_eq_div_mul, hlast, ih hi]

/-- The low byte of digit N − 8 + i. -/
def topByte (zs : List Int) (i : Nat) : Nat := (zs.getD (zs.length - 8 + i) 0 % 256).toNat

theorem topByte_lt (zs : List Int) (i : Nat) : topByte zs i < 2 ^ 8 := by
  unfold topByte
  omega

/-- The fingerprint packs the low bytes of the last eight digits. -/
theorem fingerprint_eq (zs : List Int) : fingerprint zs = BitVec.ofNat 64 (packBytes (topByte zs) 8) :=
  congrArg (BitVec.ofNat 64) (sum_map_range_bytes (topByte zs) 8)

theorem fingerprint_byte (zs : List Int) {i : Nat} (hi : i < 8) :
    ((fingerprint zs).extractLsb' (8 * (7 - i)) 8).toNat = topByte zs i := by
  rw [fingerprint_eq, BitVec.extractLsb'_toNat, BitVec.toNat_ofNat,
    Nat.mod_eq_of_lt (packBytes_lt (topByte_lt zs) 8), Nat.shiftRight_eq_div_pow]
  exact packBytes_byte (topByte_lt zs) hi

theorem packBytes_zero (n : Nat) : packBytes (fun _ => 0) n = 0 := by
  induction n with
  | zero => rfl
  | succ n ih => rw [packBytes, ih, Nat.zero_mul]

/-- Digit 0 is none of the last eight. -/
theorem topByte_cons_zeros (z : Int) {n : Nat} (hn : 8 ≤ n) :
    topByte (z :: List.replicate n 0) = fun _ => 0 := by
  funext i
  have hplace : n + 1 - 8 + i = (n - 8 + i) + 1 := by omega
  rw [topByte, List.length_cons, List.length_replicate, hplace, List.getD_cons_succ]
  simp

theorem fingerprint_cons_zeros (z : Int) {n : Nat} (hn : 8 ≤ n) :
    fingerprint (z :: List.replicate n 0) = 0 := by
  rw [fingerprint_eq, topByte_cons_zeros z hn, packBytes_zero]
  rfl

/-- Settles O51: packed bytes are read back, and 1 and −1 have no digit but the first. -/
theorem fingerprintBytes : Obligations.FingerprintBytes := by
  refine ⟨fun zs _ i hi => fingerprint_byte zs hi, fun b n hb hn => ?_⟩
  obtain ⟨n, rfl⟩ := Nat.exists_eq_add_one.mpr (show 0 < n by omega)
  rw [canonOf_one hb, canonOf_pow, specialForm_succ]
  exact ⟨fingerprint_cons_zeros 1 (by omega), fingerprint_cons_zeros (-1) (by omega)⟩

/-! ### The is-one test -/

theorem canonIsOne_iff (k : Canon) :
    canonIsOne k = true ↔ k.m1 = false ∧ ∃ zs, k.digits = 1 :: zs ∧ ∀ z ∈ zs, z = 0 := by
  obtain ⟨_ | ⟨z, zs⟩, m1⟩ := k
  · simp [canonIsOne]
  · simp [canonIsOne]

/-- A canonical form with m1 = 0 has the digits of its value. -/
theorem digitSum_canonOf_of_m1 {b n v : Nat} (hv : v ≤ b ^ n) (hm1 : (canonOf b n v).m1 = false) :
    digitSum b (canonOf b n v).digits = v := by
  obtain rfl | hlt := Nat.eq_or_lt_of_le hv
  · rw [canonOf_pow] at hm1
    cases hm1
  · rw [canonOf_of_ne hlt.ne, digitSum_quotients, Nat.mod_eq_of_lt hlt]

/-- Settles O52: digits 1, 0, …, 0 sum to 1, and they are the digits of 1. -/
theorem isOneExactlyForOne : Obligations.IsOneExactlyForOne := by
  refine ⟨canonIsOne_iff, fun b n v hb hn hv => ⟨fun h => ?_, ?_⟩⟩
  · obtain ⟨hm1, zs, hdigits, hzeros⟩ := (canonIsOne_iff _).mp h
    have hsum := digitSum_canonOf_of_m1 hv hm1
    rw [hdigits, digitSum, digitSum_eq_zero b hzeros] at hsum
    omega
  · rintro rfl
    obtain ⟨n, rfl⟩ := Nat.exists_eq_add_one.mpr hn
    rw [canonOf_one hb]
    exact (canonIsOne_iff _).mpr ⟨rfl, _, rfl, fun z hz => List.eq_of_mem_replicate hz⟩

end Sys2Proof.Machine

/-!
SUPPORT. How a command completes, said once for every command: a code, and a state the completion is made of that
keeps the record of images; and what a step does before a completion is due (44_commands.md R187, R188;
60_exceptions.md R206).
-/

namespace Sys2Proof.Machine

/-! ### Every command completes and keeps the record of images -/

/-- The command of state s ends by `complete`, from a state that has every image on record that s has. -/
def CompletesFrom (s t : State) : Prop := ∃ code u, t = complete code u ∧ s.imageLog ⊆ u.imageLog

theorem complete_completesFrom (code : ErrCode) (s : State) : CompletesFrom s (complete code s) :=
  ⟨code, s, rfl, List.Subset.refl _⟩

theorem finish_completesFrom {s u : State} (h : s.imageLog ⊆ u.imageLog) (d : Draws) (c : ActiveCfg) :
    CompletesFrom s (finish d c u) :=
  ⟨.ok, putScratch u c d.scratch, rfl, h⟩

theorem CompletesFrom.idle {s t : State} (h : CompletesFrom s t) : t.busy = false ∧ t.done = true := by
  obtain ⟨code, u, rfl, -⟩ := h
  exact ⟨complete_busy code u, complete_done code u⟩

theorem CompletesFrom.imageLog {s t : State} (h : CompletesFrom s t) : s.imageLog ⊆ t.imageLog := by
  obtain ⟨code, u, rfl, hlog⟩ := h
  exact hlog

theorem CompletesFrom.withEngine {s : State} {k : ActiveCfg → Phase → State}
    (h : ∀ c p, CompletesFrom s (k c p)) : CompletesFrom s (withEngine s k) := by
  obtain ⟨-, hk⟩ | ⟨c, p, -, hk⟩ := withEngine_cases s k <;> rw [hk]
  · exact complete_completesFrom _ s
  · exact h c p

theorem CompletesFrom.withField {s : State} {r : Option RegId} {k : RegId → State}
    (h : ∀ j, CompletesFrom s (k j)) : CompletesFrom s (withField s r k) := by
  obtain ⟨-, hk⟩ | ⟨j, -, hk⟩ := withField_cases s r k <;> rw [hk]
  · exact complete_completesFrom _ s
  · exact h j

theorem CompletesFrom.withValue {s : State} {j : RegId} {k : Nat → State}
    (h : ∀ v, CompletesFrom s (k v)) : CompletesFrom s (withValue s j k) := by
  obtain ⟨-, hk⟩ | ⟨v, -, hk⟩ := withValue_cases s j k <;> rw [hk]
  · exact complete_completesFrom _ s
  · exact h v

theorem configureWith_accepted {p : Sizes} {s : State} (h : configAccepted p (latchedCfg s) = true) :
    configureWith p s = complete .ok (applyConfig (latchedCfg s) s) := if_pos h

theorem configureWith_refused {p : Sizes} {s : State} (h : ¬configAccepted p (latchedCfg s) = true) :
    configureWith p s = complete .config s := if_neg h

theorem configureWith_imageLog (p : Sizes) (s : State) : (configureWith p s).imageLog = s.imageLog := by
  unfold configureWith
  split <;> rfl

theorem configureWith_completesFrom (p : Sizes) (s : State) : CompletesFrom s (configureWith p s) := by
  unfold configureWith
  split
  · exact ⟨_, _, rfl, List.Subset.refl _⟩
  · exact complete_completesFrom _ s

/-- Every decoded command completes and takes nothing off the record. -/
theorem exec_completesFrom (i : Instr) (s : State) : ∃ t, exec i s = .next t ∧ CompletesFrom s t := by
  cases i with
  | nop => exact ⟨_, rfl, complete_completesFrom _ s⟩
  | configure => exact ⟨_, rfl, configureWith_completesFrom _ s⟩
  | set =>
    exact ⟨_, rfl, .withEngine fun _ _ => finish_completesFrom (List.subset_cons_self _ _) _ _⟩
  | squareDup dup =>
    exact ⟨_, rfl, .withEngine fun _ _ => .withValue fun _ =>
      finish_completesFrom (List.subset_cons_self _ _) _ _⟩
  | copy dst src =>
    exact ⟨_, rfl, .withEngine fun _ _ => .withField fun _ => .withField fun _ => .withValue fun _ =>
      finish_completesFrom (List.subset_cons_self _ _) _ _⟩
  | initMult src =>
    exact ⟨_, rfl, .withEngine fun _ _ => .withField fun _ => .withValue fun _ =>
      finish_completesFrom (List.subset_cons_self _ _) _ _⟩
  | mul =>
    exact ⟨_, rfl, .withEngine fun _ _ => .withValue fun _ => .withValue fun _ =>
      finish_completesFrom (List.subset_cons_self _ _) _ _⟩
  | getInt =>
    exact ⟨_, rfl, .withEngine fun _ _ => .withValue fun _ => finish_completesFrom (List.Subset.refl _) _ _⟩
  | isOne =>
    exact ⟨_, rfl, .withEngine fun _ _ => .withValue fun _ => finish_completesFrom (List.Subset.refl _) _ _⟩
  | validate dst =>
    exact ⟨_, rfl, .withEngine fun _ _ => .withField fun _ =>
      finish_completesFrom (List.subset_cons_self _ _) _ _⟩

/-- A completion step, of a legal word or of an illegal one. -/
theorem runCommand_completesFrom (s : State) : ∃ t, runCommand s = .next t ∧ CompletesFrom s t := by
  obtain ⟨i, -, hrun⟩ | ⟨-, -, hrun⟩ := runCommand_cases s <;> rw [hrun]
  · exact exec_completesFrom i s
  · exact ⟨_, rfl, complete_completesFrom _ s⟩

/-! ### A step -/

theorem step_due {s : State} (hb : s.busy = true) (hr : s.remaining = 0) : step s = runCommand s := by
  simp only [step, hb, hr, beq_self_eq_true, Bool.and_self, if_true]

theorem step_notDue {s : State} (h : s.busy = false ∨ s.remaining ≠ 0) :
    step s = .next (runInput { s with remaining := s.remaining - 1 }) := by
  obtain ⟨hb, hr, -⟩ | ⟨-, hstep⟩ := step_cases s
  · simp [hb, hr] at h
  · exact hstep

theorem runCommand_of_decode {s : State} {i : Instr} (h : decode s.cmdLat = .ok i) :
    runCommand s = exec i s := by
  simp only [runCommand, h]

/-! ### The world while a command runs -/

/-- While a command runs no write of a register but a soft reset changes how many steps are left to it, or
what the world does next. -/
theorem writeReg_schedule {s : State} (hb : s.busy = true) {r : WinReg} {v : Word}
    (hreset : r = .ctrl → v.getLsbD 1 = false) :
    (writeReg r v s).remaining = s.remaining ∧ (writeReg r v s).inputs = s.inputs := by
  cases r with
  | ctrl => rw [writeReg_ctrl (hreset rfl)]; exact ⟨rfl, rfl⟩
  | cmd => rw [writeReg_cmd_busy hb]; exact ⟨rfl, rfl⟩
  | maxErrLo => rw [(writeReg_maxErr_busy hb v).1]; exact ⟨rfl, rfl⟩
  | maxErrHi => rw [(writeReg_maxErr_busy hb v).2]; exact ⟨rfl, rfl⟩
  | rawHi =>
    have hkept : writeReg .rawHi v s = s := writeRawHi_none (rawTarget_busy hb) v
    rw [hkept]
    exact ⟨rfl, rfl⟩
  | _ => exact ⟨rfl, rfl⟩

/-- An action of the world that does not stop the running command brings it no nearer to its completion, and
leaves the actions to come (44_commands.md R188). -/
theorem runEvent_schedule {s : State} (hb : s.busy = true) {e : HostEvent} (he : stopsCommand e = false) :
    (runEvent e s).remaining = s.remaining ∧ (runEvent e s).inputs = s.inputs := by
  cases e with
  | read addr width =>
    show (busRead addr width s).2.remaining = _ ∧ (busRead addr width s).2.inputs = _
    obtain hs | ⟨r, hr⟩ := busRead_state addr width s
    · rw [hs]; exact ⟨rfl, rfl⟩
    · rw [hr, readReg_state_busy r hb]; exact ⟨rfl, rfl⟩
  | write addr width x =>
    show (busWrite addr width x s).2.remaining = _ ∧ (busWrite addr width x s).2.inputs = _
    obtain hs | ⟨r, rfl, rfl, hw⟩ := busWrite_target addr width x s
    · rw [hs]; exact ⟨rfl, rfl⟩
    · rw [hw]
      refine writeReg_schedule hb ?_
      rintro rfl
      exact srst_of_not_softReset he
  | resetInput b => simp [stopsCommand] at he
  | quiet => exact ⟨rfl, rfl⟩

/-- A step of a running command that is not due and is not stopped: the command runs on with one step less,
and the world's next action is spent. -/
theorem step_running {s : State} (hb : s.busy = true) {n : Nat} (hn : s.remaining = n + 1)
    (hin : ∀ e ∈ s.inputs.take (n + 1), stopsCommand e = false) :
    ∃ t, step s = .next t ∧ t.busy = true ∧ t.remaining = n ∧ t.inputs = s.inputs.tail := by
  refine ⟨_, step_notDue (.inr (by omega)), ?_⟩
  cases hi : s.inputs with
  | nil => simp [runInput, hb, hn]
  | cons e es =>
    have he : stopsCommand e = false := hin e (by simp [hi])
    obtain ⟨hrem, hinp⟩ :=
      runEvent_schedule (s := { s with remaining := s.remaining - 1, inputs := es }) hb he
    have hbusy := congrArg State.busy
      (commandSide_runEvent (s := { s with remaining := s.remaining - 1, inputs := es }) hb he)
    simp only [runInput, List.tail_cons]
    exact ⟨hbusy.trans hb, hrem.trans (by simp [hn]), hinp⟩

theorem run_succ_of_step {s t : State} (h : step s = .next t) (k : Nat) :
    Host.Core.run Sys2Proof.core (k + 1) s = Host.Core.run Sys2Proof.core k t := by
  have hcore : Sys2Proof.core.step s = .next t := h
  simp only [Host.Core.run, hcore]

end Sys2Proof.Machine

/-!
PROOF. Steps, acceptance and completion; NOP and CONFIGURE; and the record of images, which nothing takes an image
off (44_commands.md R187 to R191; 10_state.md R54, R59).
-/

namespace Sys2Proof.Machine

/-- Settles O7, by induction on the steps left. -/
theorem commandCompletes : Obligations.CommandCompletes := by
  intro s hb hin
  induction hn : s.remaining generalizing s with
  | zero =>
    obtain ⟨t, hrun, ht⟩ := runCommand_completesFrom s
    exact ⟨t, run_succ_of_step ((step_due hb hn).trans hrun) 0, ht.idle⟩
  | succ n ih =>
    rw [hn] at hin
    obtain ⟨t, hstep, htb, htr, hti⟩ := step_running hb hn hin
    have hinputs : ∀ e ∈ t.inputs.take t.remaining, stopsCommand e = false := by
      intro e he
      refine hin e ?_
      rw [hti, htr] at he
      cases hs : s.inputs with
      | nil => simp [hs] at he
      | cons a as =>
        rw [hs, List.tail_cons] at he
        exact List.mem_cons_of_mem a he
    rw [run_succ_of_step hstep]
    exact ih t htb hinputs htr

/-- Settles O5, by the two things a step can be. -/
theorem stepRunsDecoded : Obligations.StepRunsDecoded :=
  ⟨fun _ _ hb hr hi => (step_due hb hr).trans (runCommand_of_decode hi), fun _ h => step_notDue h⟩

/-- Settles O9: NOP is its completion. -/
theorem nopCompletes : Obligations.NopCompletes := fun _ => rfl

/-- Settles O32: an idle block accepts the word, and its OP field is the word modulo 256. -/
theorem commandAccepted : Obligations.CommandAccepted := by
  intro s w hb
  have hop : opField w = w.toNat % 256 := extractLsb'_toNat_eq w 0 8 |>.trans (by simp)
  rw [writeReg_cmd_idle hb, ← hop]
  exact ⟨rfl, rfl⟩

/-- CONFIGURE's tests, one by one (44_commands.md R191). -/
theorem configAccepted_iff (p : Sizes) (c : ActiveCfg) : configAccepted p c = true ↔
    (c.b.toNat % 2 = 0 ∧ 2 ≤ c.b.toNat ∧ 10 ≤ c.log2n.toNat ∧ c.log2n.toNat ≤ 23) ∧
    c.b.toNat ≤ p.bMax c.log2n.toNat ∧
    (1 ≤ c.t.toNat ∧ c.t.toNat ≤ p.tMax ∧ c.t.toNat ≤ nio c.log2n.toNat / 8) ∧
    c.numRegs.toNat ≤ p.nregsMax ∧
    arenaReq c.log2n.toNat c.t.toNat c.numRegs.toNat ≤ p.arenaBytes := by
  simp only [configAccepted, Bool.and_eq_true, beq_iff_eq, decide_eq_true_eq, le_min_iff, and_assoc]
  rfl

/-- A command's completion keeps what the host writes when the writes before it do. -/
theorem HostSideKept.complete {s t : State} (h : HostSideKept s t) (e : ErrCode) :
    HostSideKept s (complete e t) :=
  { h with }

theorem applyConfig_hostSideKept (c : ActiveCfg) (s : State) : HostSideKept s (applyConfig c s) := by
  constructor <;> rfl

/-- Settles O11: the writes of a CONFIGURE that passes its tests, field by field. -/
theorem configureSucceeds : Obligations.ConfigureSucceeds := by
  refine ⟨fun _ => rfl, fun p s h => ?_, fun p s h => configureWith_refused (by simp [h])⟩
  have hbase : cfgBase (latchedCfg s) = s.cfgLatB.toNat := rfl
  rw [configureWith_accepted h, complete_sbHi, complete_sbLo, applyConfig_sbHi, applyConfig_sbLo, hbase]
  exact ⟨⟨rfl, rfl, rfl, rfl⟩, rfl, getElem_replicate_reg, rfl, rfl, rfl, rfl, rfl, rfl, rfl, rfl, rfl, rfl,
    (applyConfig_hostSideKept _ s).complete .ok⟩

/-- Settles O10, by the tests one by one and O11 with this block's sizes. -/
theorem configureEffect : Obligations.ConfigureEffect := by
  refine ⟨configAccepted_iff, fun s => ⟨_, rfl, rfl, ?_⟩⟩
  split
  · next h =>
    obtain ⟨hended, hengine, hregs, hhi, hlo, herr, hmax, hfp, hpw, hun, hone, hm1, hdv, hhost⟩ :=
      configureSucceeds.2.1 Config.sizes s h
    refine ⟨hended, hengine, hregs, hhi, hlo, herr, hmax, hfp, hpw, hun, hone, hm1, hdv, hhost, ?_⟩
    rw [configureWith_accepted h]
    exact ⟨rfl, rfl, rfl, rfl⟩
  · next h => exact configureWith_refused h

end Sys2Proof.Machine

/-!
SUPPORT. What a residue command that ends with OK leaves: a register and its image, a decode, or a validated
register, and everything else as it was but the scratch image (44_commands.md R192 to R199; 10_state.md R54, R65).
-/

namespace Sys2Proof.Machine

/-! ### The end of a residue command -/

/-- The end of a residue command writes the scratch image and no other byte. -/
theorem finish_bytesKeptOutside (d : Draws) (c : ActiveCfg) (u : State) :
    BytesKeptOutside (scratchBase (cfgL c) (cfgR c)) (imageBytesOf (cfgL c)) u (finish d c u) :=
  bytesKeptOutside_of_imageWrite rfl (finish_arena d c u)

theorem regsKeptBut_of_set {s t : State} {j : RegId} {x : Option Nat} (h : t.regs = s.regs.set j x) :
    RegsKeptBut j s t := by
  intro k hk
  rw [h, getElem_set_reg, if_neg hk]

theorem regs_self_of_set {s t : State} {j : RegId} {x : Option Nat} (h : t.regs = s.regs.set j x) :
    t.regs[j] = x := by
  rw [h, getElem_set_reg, if_pos rfl]

/-! ### A register and its image -/

/-- The image a command wrote is still there when the command has ended. -/
theorem imageIs_finish {s u : State} {c : ActiveCfg} {j : RegId} {f : Nat → DWord} (hj : HasReg (cfgR c) j)
    (ha : u.arena = memWriteBytes s.arena (imageBase (cfgL c) j) (imageBytes (cfgL c) f)) (d : Draws) :
    ImageIs (finish d c u) (cfgL c) j f := fun _ hw =>
  (imgWord_of_bytesKeptOutside (finish_bytesKeptOutside d c u) (.inl (imageBase_le_scratchBase _ hj)) hw).trans
    (imgWord_of_write ha hw)

theorem bytesKeptBut_finish {s u : State} {c : ActiveCfg} {j : RegId} {f : Nat → DWord}
    (he : u.epoch = s.epoch)
    (ha : u.arena = memWriteBytes s.arena (imageBase (cfgL c) j) (imageBytes (cfgL c) f)) (d : Draws) :
    BytesKeptBut c (imageBase (cfgL c) j) (imageBytesOf (cfgL c)) s (finish d c u) := fun a himage hscratch =>
  (finish_bytesKeptOutside d c u a hscratch).trans (bytesKeptOutside_of_imageWrite he ha a himage)

/-- What a command that gives register j a value and an image leaves, whatever else it does to the error metric
and to the datapath's slots and accumulators. -/
structure ImageGiven (c : ActiveCfg) (j : RegId) (v : Nat) (f : Nat → DWord) (q : Phase) (s t : State) :
    Prop where
  ended : EndedWith .ok s t
  value : t.regs[j] = some v
  engine : t.engine = .configured c q
  image : ImageIs t (cfgL c) j f
  regs : RegsKeptBut j s t
  host : HostSideKept s t
  digits : DigitsKept s t
  verdict : VerdictKept s t
  sbHi : t.sbHi = s.sbHi
  sbLo : t.sbLo = s.sbLo
  bytes : BytesKeptBut c (imageBase (cfgL c) j) (imageBytesOf (cfgL c)) s t

/-- A command that gives a register a value and an image, and sets the error metric, ends as `ImageGiven` says. -/
theorem imageGiven_finish {s : State} {c : ActiveCfg} {j : RegId} (hj : HasReg (cfgR c) j) (d : Draws) (v : Nat)
    (f : Nat → DWord) (q : Phase) (err maxErr : F64) (pwarn unrec : Bool) (carry : List (List Int))
    (errAcc : List F64) :
    ImageGiven c j v f q s (finish d c { setPhase (putImage s c j v f) c q with
      err := err, maxErr := maxErr, pwarn := pwarn, unrec := unrec, carry := carry, errAcc := errAcc }) where
  ended := ⟨rfl, rfl, rfl, rfl⟩
  value := regs_self_of_set (s := s) rfl
  engine := rfl
  image := imageIs_finish (s := s) hj rfl d
  regs := regsKeptBut_of_set (s := s) rfl
  host := by constructor <;> rfl
  digits := ⟨rfl, rfl, rfl⟩
  verdict := ⟨rfl, rfl⟩
  sbHi := rfl
  sbLo := rfl
  bytes := bytesKeptBut_finish (s := s) (f := f) (by rfl) rfl d

/-- A command that gives a register a value and an image and nothing else keeps the metric and the datapath too. -/
theorem imageGiven_finish_setPhase {s : State} {c : ActiveCfg} {j : RegId} (hj : HasReg (cfgR c) j) (d : Draws)
    (v : Nat) (f : Nat → DWord) (q : Phase) :
    ImageGiven c j v f q s (finish d c (setPhase (putImage s c j v f) c q)) ∧
      MetricKept s (finish d c (setPhase (putImage s c j v f) c q)) ∧
      DatapathKept s (finish d c (setPhase (putImage s c j v f) c q)) :=
  ⟨imageGiven_finish hj d v f q s.err s.maxErr s.pwarn s.unrec s.carry s.errAcc, ⟨rfl, rfl, rfl, rfl⟩,
    ⟨rfl, rfl, rfl, rfl⟩⟩

/-! ### The operands -/

theorem regOperand_of_le {c : ActiveCfg} {j : RegId} (hr : j.val ≤ cfgR c) (h30 : j.val ≤ 30) :
    regOperand c j.val = some j := dif_pos ⟨hr, h30⟩

theorem validateOperand_eq_some {c : ActiveCfg} {dst : Nat} {j : RegId}
    (h : (dst = 0xFF ∧ j = regM) ∨ (dst = j.val ∧ j.val ≤ cfgR c ∧ j.val ≤ 30)) :
    validateOperand c dst = some j := by
  obtain ⟨rfl, rfl⟩ | ⟨rfl, hr, h30⟩ := h
  · exact if_pos rfl
  · rw [validateOperand, if_neg (by omega), regOperand_of_le hr h30]

/-! ### SET, COPY and INIT_MULT when their checks pass -/

theorem setWith_of {s : State} {c : ActiveCfg} {p : Phase} (he : s.engine = .configured c p) (d : Draws) :
    setWith d s = finish d c (setPhase (putImage s c 0 (residueOf (cfgMod c) (setOperand s)) (setImage d c s))
      c .initialized) := withEngine_of he _

theorem copyWith_of {s : State} {c : ActiveCfg} {p : Phase} (he : s.engine = .configured c p) {dst src : Nat}
    {j r : RegId} (hj : regOperand c dst = some j) (hr : regOperand c src = some r) {v : Nat}
    (hv : s.regs[r] = some v) (d : Draws) :
    copyWith d dst src s = finish d c (setPhase (putImage s c j v (imgWord s (cfgL c) r)) c
      (if j = 0 then .spectral else p)) := by
  rw [copyWith, withEngine_of he, hj, withField, hr, withField, withValue_of hv]

theorem initMultWith_of {s : State} {c : ActiveCfg} {p : Phase} (he : s.engine = .configured c p) {src : Nat}
    {r : RegId} (hr : regOperand c src = some r) {v : Nat} (hv : s.regs[r] = some v) (d : Draws) :
    initMultWith d src s = finish d c (setPhase (putImage s c regM v
      (writtenWord d (cfgL c) (innerImage (cfgL c) (imageSamples s (cfgL c) r)))) c p) := by
  rw [initMultWith, withEngine_of he, hr, withField, withValue_of hv, setPhase_self (c := c) (p := p)]
  exact he

end Sys2Proof.Machine

/-!
PROOF. SET, COPY and INIT_MULT: the register's value and image, and the frame (44_commands.md R192, R194, R195).
-/

namespace Sys2Proof.Machine

/-- Settles O12: SET gives r_0 a value and an image and nothing else. -/
theorem setEffect : Obligations.SetEffect := by
  intro s c p he
  refine ⟨_, rfl, ?_⟩
  rw [setWith_of he]
  obtain ⟨h, hmetric, hdatapath⟩ := imageGiven_finish_setPhase (hasReg_zero (cfgR c)) (Config.draws s.draw)
    (residueOf (cfgMod c) (setOperand s)) (setImage (Config.draws s.draw) c s) .initialized
  exact ⟨h.ended, h.value, h.engine, h.image, h.regs, h.host, hmetric, h.digits, h.verdict, hdatapath, h.bytes⟩

/-- Settles O15: COPY gives r_DST the value and the image of r_SRC and nothing else. -/
theorem copyEffect : Obligations.CopyEffect := by
  intro s c p j r v he hj hr hj30 hr30 hv
  refine ⟨_, rfl, ?_⟩
  rw [copyWith_of he (regOperand_of_le hj hj30) (regOperand_of_le hr hr30) hv]
  obtain ⟨h, hmetric, hdatapath⟩ := imageGiven_finish_setPhase (.inr hj) (Config.draws s.draw) v
    (imgWord s (cfgL c) r) (if j = 0 then .spectral else p)
  exact ⟨h.ended, h.value, h.image, h.engine, h.regs, h.host, hmetric, h.digits, h.verdict, hdatapath, h.bytes⟩

/-- Settles O16: INIT_MULT gives r_m the value of r_SRC and its inner transform, and nothing else. -/
theorem initMultEffect : Obligations.InitMultEffect := by
  intro s c p r v he hr hr30 hv
  refine ⟨_, rfl, ?_⟩
  rw [initMultWith_of he (regOperand_of_le hr hr30) hv, he]
  obtain ⟨h, hmetric, hdatapath⟩ := imageGiven_finish_setPhase (hasReg_regM (cfgR c)) (Config.draws s.draw) v
    (writtenWord (Config.draws s.draw) (cfgL c) (innerImage (cfgL c) (imageSamples s (cfgL c) r))) p
  exact ⟨h.ended, h.value, h.image, h.engine, h.regs, h.host, hmetric, h.digits, h.verdict, hdatapath, h.bytes⟩

end Sys2Proof.Machine

/-!
PROOF. SQUARE_DUP and MUL: the value by EXACT, the image, the metric and its flags, and the frame
(44_commands.md R189, R193, R196; 10_state.md R61, R62).
-/

namespace Sys2Proof.Machine

/-! ### The datapath's outcome -/

/-- ERR is the largest of the accumulators in every schedule (10_state.md R62). -/
theorem squareOut_err (d : Draws) (c : ActiveCfg) (s : State) (g : Nat) (z : Samples) :
    (squareOut d c s g z).err = combineErr (squareOut d c s g z).errAcc := by
  unfold squareOut
  split <;> rfl

theorem combineErr_of_zeros {acc : List F64} (h : ∀ e ∈ acc, e = 0) : combineErr acc = 0 :=
  List.foldlRecOn (motive := fun m : F64 => m = 0) acc _ rfl fun m hm e he => by
    rw [h e he, hm, f64Max, ite_self]

/-- With CHECK_ERROR = 0 every accumulator stays +0.0 (42_passes.md R175). -/
theorem squareOut_errAcc_unchecked (d : Draws) {c : ActiveCfg} (hc : c.checkError = false) (s : State) (g : Nat)
    (z : Samples) : ∀ e ∈ (squareOut d c s g z).errAcc, e = 0 := by
  unfold squareOut
  split
  · simp only [hc, Bool.false_eq_true, if_false]
    exact fun e he => List.eq_of_mem_replicate he
  · simp only [hc, Bool.false_eq_true, if_false]
    intro e he
    obtain ⟨-, -, rfl⟩ := List.mem_map.mp he
    rfl

theorem squareOut_err_unchecked (d : Draws) {c : ActiveCfg} (hc : c.checkError = false) (s : State) (g : Nat)
    (z : Samples) : (squareOut d c s g z).err = 0 := by
  rw [squareOut_err, combineErr_of_zeros (squareOut_errAcc_unchecked d hc s g z)]

/-! ### The commands when their checks pass -/

/-- What a squaring or a multiplication sets at completion beside r_0 (44_commands.md R193, R196). -/
structure SquareFinished (out : SquareOut) (s t : State) : Prop where
  err : t.err = out.err
  maxErr : t.maxErr = if f64Lt s.maxErr t.err then t.err else s.maxErr
  pwarn : t.pwarn = f64Lt s.threshLat t.err
  unrec : t.unrec = f64Le f64Half t.err
  carry : t.carry = out.slots
  errAcc : t.errAcc = out.errAcc

theorem finishSquare_imageGiven (d : Draws) (c : ActiveCfg) (v : Nat) (out : SquareOut) (s : State) :
    ImageGiven c 0 v out.word .spectral s (finishSquare d c v out s) :=
  imageGiven_finish (hasReg_zero (cfgR c)) d v out.word .spectral out.err _ _ _ out.slots out.errAcc

theorem finishSquare_finished (d : Draws) (c : ActiveCfg) (v : Nat) (out : SquareOut) (s : State) :
    SquareFinished out s (finishSquare d c v out s) :=
  ⟨rfl, rfl, rfl, rfl, rfl, rfl⟩

theorem squareDupWith_of {s : State} {c : ActiveCfg} {p : Phase} {v : Nat} (he : s.engine = .configured c p)
    (hv : s.regs[(0 : RegId)] = some v) (d : Draws) (dup : Bool) :
    squareDupWith d dup s = finishSquare d c (squareValue d c dup v)
      (squareOut d c s (gainOf dup) (pass1Square (cfgL c) (cfgT c) (imageSamples s (cfgL c) 0))) s := by
  rw [squareDupWith, withEngine_of he, withValue_of hv]

theorem mulWith_of {s : State} {c : ActiveCfg} {p : Phase} {v u : Nat} (he : s.engine = .configured c p)
    (hv : s.regs[(0 : RegId)] = some v) (hu : s.regs[regM] = some u) (d : Draws) :
    mulWith d s = finishSquare d c (mulValue d c v u)
      (squareOut d c s 1
        (pass1Mul (cfgL c) (cfgT c) (imageSamples s (cfgL c) 0) (imageSamples s (cfgL c) regM))) s := by
  rw [mulWith, withEngine_of he, withValue_of hv, withValue_of hu]

theorem squareValue_of_exact {d : Draws} (h : d.exact = true) (c : ActiveCfg) (dup : Bool) (v : Nat) :
    squareValue d c dup v = gainOf dup * v ^ 2 % cfgMod c := if_pos h

theorem mulValue_of_exact {d : Draws} (h : d.exact = true) (c : ActiveCfg) (v u : Nat) :
    mulValue d c v u = v * u % cfgMod c := if_pos h

/-- Settles O13: what every squaring sets at its end, and r_0's value by EXACT. -/
theorem squareDupEffect : Obligations.SquareDupEffect := by
  intro s c p dup v he hv
  refine ⟨_, rfl, ?_⟩
  rw [squareDupWith_of he hv]
  set d := Config.draws s.draw
  set z := pass1Square (cfgL c) (cfgT c) (imageSamples s (cfgL c) 0)
  have h := finishSquare_imageGiven d c (squareValue d c dup v) (squareOut d c s (gainOf dup) z) s
  have hfin := finishSquare_finished d c (squareValue d c dup v) (squareOut d c s (gainOf dup) z) s
  exact ⟨h.ended, ⟨_, h.value, squareValue_lt d c dup v, fun hex => squareValue_of_exact hex c dup v⟩, h.engine,
    hfin.err, h.image, hfin.carry, hfin.errAcc, squareOut_err d c s _ z, hfin.maxErr, hfin.pwarn, hfin.unrec,
    fun hc => squareOut_err_unchecked d hc s _ z, h.regs, h.host, h.digits, h.verdict, h.sbHi, h.sbLo, h.bytes⟩

/-- Settles O14: as SQUARE_DUP with g = 1, and r_0's value by EXACT. -/
theorem mulEffect : Obligations.MulEffect := by
  intro s c p v u he hv hu
  refine ⟨_, rfl, ?_⟩
  rw [mulWith_of he hv hu]
  set d := Config.draws s.draw
  set z := pass1Mul (cfgL c) (cfgT c) (imageSamples s (cfgL c) 0) (imageSamples s (cfgL c) regM)
  have h := finishSquare_imageGiven d c (mulValue d c v u) (squareOut d c s 1 z) s
  have hfin := finishSquare_finished d c (mulValue d c v u) (squareOut d c s 1 z) s
  exact ⟨h.ended, ⟨_, h.value, mulValue_lt d c v u, fun hex => mulValue_of_exact hex c v u⟩, h.engine,
    hfin.err, h.image, hfin.carry, hfin.errAcc, squareOut_err d c s _ z, hfin.maxErr, hfin.pwarn, hfin.unrec,
    fun hc => squareOut_err_unchecked d hc s _ z, h.regs, h.host, h.digits, h.verdict, h.sbHi, h.sbLo, h.bytes⟩

end Sys2Proof.Machine

/-!
PROOF. GET_INT and IS_ONE: the words of the canonical form, and the frame (44_commands.md R197, R198).
-/

namespace Sys2Proof.Machine

/-! ### The words of the canonical form -/

theorem nLen_pos (l : Nat) : 0 < nLen l := Nat.two_pow_pos l

theorem cfgMod_sub_one (c : ActiveCfg) : cfgMod c - 1 = cfgBase c ^ nLen (cfgL c) := rfl

theorem canonOf_m1 (b n v : Nat) : (canonOf b n v).m1 = decide (v = b ^ n) := by
  unfold canonOf specialForm
  split <;> simp [*]

/-- −1 is the word 0xFFFFFFFF, and the zeros after it are zeros (44_commands.md R197). -/
theorem specialForm_words {n : Nat} (hn : 0 < n) :
    ((specialForm n).digits.map digitWord).head? = some 0xFFFFFFFF ∧
      ∀ w ∈ ((specialForm n).digits.map digitWord).tail, w = 0 := by
  obtain ⟨n, rfl⟩ := Nat.exists_eq_add_one.mpr hn
  rw [specialForm_succ, List.map_cons, List.map_replicate]
  exact ⟨rfl, fun w hw => List.eq_of_mem_replicate hw⟩

/-- A digit of 32 bits is read back from its word. -/
theorem digitWord_toNat {k : Nat} (h : k < 2 ^ 32) : ((digitWord k).toNat : Int) = k := by
  rw [digitWord, BitVec.ofInt_natCast, BitVec.toNat_ofNat, Nat.mod_eq_of_lt h]

/-- For a base of 32 bits the words of a canonical form that is not −1 are its digits (43_residue.md R181). -/
theorem canonOf_words {b n v : Nat} (hb : b < 2 ^ 32) (hpos : 0 < b) (hv : v ≠ b ^ n) :
    ((canonOf b n v).digits.map digitWord).map (fun w => (w.toNat : Int)) = (canonOf b n v).digits := by
  rw [canonOf_of_ne hv, List.map_map]
  refine (List.map_congr_left fun z hz => ?_).trans (List.map_id _)
  obtain ⟨k, -, rfl⟩ := List.mem_map.mp hz
  exact digitWord_toNat ((Nat.mod_lt _ hpos).trans hb)

/-- The words GET_INT and IS_ONE leave for a residue u, by whether u is −1 (44_commands.md R197). -/
theorem canonWords_by_value {c : ActiveCfg} {u : Nat} (hu : u < cfgMod c) {ws : List Word}
    (hws : ws = (canonOf (cfgBase c) (nLen (cfgL c)) u).digits.map digitWord) :
    (u = cfgMod c - 1 → ws.head? = some 0xFFFFFFFF ∧ ∀ w ∈ ws.tail, w = 0) ∧
      (u ≠ cfgMod c - 1 →
        ws.map (fun w => (w.toNat : Int)) = (canonOf (cfgBase c) (nLen (cfgL c)) u).digits) := by
  subst hws
  constructor
  · rintro rfl
    rw [cfgMod_sub_one, canonOf_pow]
    exact specialForm_words (nLen_pos _)
  · intro hne
    have hbase : 0 < cfgBase c := by
      refine Nat.pos_of_ne_zero fun h0 => hne ?_
      have hpow : cfgMod c - 1 = 0 := by rw [cfgMod_sub_one, h0, Nat.zero_pow (nLen_pos _)]
      omega
    exact canonOf_words c.b.isLt hbase hne

/-! ### The commands when their check passes -/

/-- The residue whose canonical form a read-out gives: r_0's value under EXACT, any residue otherwise. -/
def readoutValue (d : Draws) (c : ActiveCfg) (v : Nat) : Nat := if d.exact then v else d.residue % cfgMod c

theorem readoutCanon_eq (d : Draws) (c : ActiveCfg) (v : Nat) :
    readoutCanon d c v = canonOf (cfgBase c) (nLen (cfgL c)) (readoutValue d c v) := rfl

theorem readoutValue_lt {c : ActiveCfg} {v : Nat} (hv : v < cfgMod c) (d : Draws) :
    readoutValue d c v < cfgMod c := by
  unfold readoutValue
  split
  · exact hv
  · exact Nat.mod_lt _ (cfgMod_pos c)

theorem readoutValue_of_exact {d : Draws} (h : d.exact = true) (c : ActiveCfg) (v : Nat) :
    readoutValue d c v = v := if_pos h

theorem getIntWith_of {s : State} {c : ActiveCfg} {p : Phase} {v : Nat} (he : s.engine = .configured c p)
    (hv : s.regs[(0 : RegId)] = some v) (d : Draws) :
    getIntWith d s = finish d c (putDigits (readoutCanon d c v) s) := by
  rw [getIntWith, withEngine_of he, withValue_of hv]

theorem isOneWith_of {s : State} {c : ActiveCfg} {p : Phase} {v : Nat} (he : s.engine = .configured c p)
    (hv : s.regs[(0 : RegId)] = some v) (d : Draws) :
    isOneWith d s = finish d c { putDigits (readoutCanon d c v) s with
      one := canonIsOne (readoutCanon d c v), fp := fingerprint (readoutCanon d c v).digits } := by
  rw [isOneWith, withEngine_of he, withValue_of hv]

/-- What a read-out leaves beside the digits, and the verdict of IS_ONE. -/
structure ReadoutGiven (c : ActiveCfg) (k : Canon) (one : Bool) (fp : DWord) (s t : State) : Prop where
  ended : EndedWith .ok s t
  digits : t.digits = k.digits.map digitWord
  dvalid : t.dvalid = true
  m1 : t.m1 = k.m1
  one : t.one = one
  fp : t.fp = fp
  engine : t.engine = s.engine
  regs : t.regs = s.regs
  host : HostSideKept s t
  metric : MetricKept s t
  datapath : DatapathKept s t
  bytes : BytesKeptOutside (scratchBase (cfgL c) (cfgR c)) (imageBytesOf (cfgL c)) s t

theorem readoutGiven_finish (d : Draws) (c : ActiveCfg) (k : Canon) (one : Bool) (fp : DWord) (s : State) :
    ReadoutGiven c k one fp s (finish d c { putDigits k s with one := one, fp := fp }) where
  ended := ⟨rfl, rfl, rfl, rfl⟩
  digits := rfl
  dvalid := rfl
  m1 := rfl
  one := rfl
  fp := rfl
  engine := rfl
  regs := rfl
  host := by constructor <;> rfl
  metric := ⟨rfl, rfl, rfl, rfl⟩
  datapath := ⟨rfl, rfl, rfl, rfl⟩
  bytes := finish_bytesKeptOutside d c { putDigits k s with one := one, fp := fp }

/-- Settles O17: the decode GET_INT writes, and its words by value. -/
theorem getIntEffect : Obligations.GetIntEffect := by
  intro s c p v he hv hlt
  refine ⟨_, rfl, ?_⟩
  rw [getIntWith_of he hv]
  set d := Config.draws s.draw
  have h : ReadoutGiven c (readoutCanon d c v) s.one s.fp s (finish d c (putDigits (readoutCanon d c v) s)) :=
    readoutGiven_finish d c (readoutCanon d c v) s.one s.fp s
  obtain ⟨hminus, hother⟩ := canonWords_by_value (readoutValue_lt hlt d) h.digits
  exact ⟨h.ended, ⟨readoutValue d c v, readoutValue_lt hlt d, fun hex => readoutValue_of_exact hex c v, h.digits,
    hminus, hother, h.m1.trans (canonOf_m1 _ _ _)⟩, h.dvalid, h.engine, h.regs, h.host, h.metric,
    ⟨h.one, h.fp⟩, h.datapath, h.bytes⟩

/-- Settles O18: the decode IS_ONE writes, and its verdict on the canonical form. -/
theorem isOneEffect : Obligations.IsOneEffect := by
  intro s c p v he hv hlt
  refine ⟨_, rfl, ?_⟩
  rw [isOneWith_of he hv]
  set d := Config.draws s.draw
  have h := readoutGiven_finish d c (readoutCanon d c v) (canonIsOne (readoutCanon d c v))
    (fingerprint (readoutCanon d c v).digits) s
  obtain ⟨hminus, hother⟩ := canonWords_by_value (readoutValue_lt hlt d) h.digits
  exact ⟨h.ended, ⟨readoutValue d c v, readoutValue_lt hlt d, fun hex => readoutValue_of_exact hex c v, h.digits,
    hminus, hother, h.m1.trans (canonOf_m1 _ _ _), h.one, h.fp⟩, h.dvalid, h.engine, h.regs, h.host, h.metric,
    h.datapath, h.bytes⟩

end Sys2Proof.Machine

/-!
PROOF. VALIDATE, and the restore round trip over the record of images (44_commands.md R189, R199; 10_state.md R54).
-/

namespace Sys2Proof.Machine

/-- The state VALIDATE of register j gives, before it ends (44_commands.md R199). -/
def validated (c : ActiveCfg) (p : Phase) (j : RegId) (v : Nat) (s : State) : State :=
  { s with
    regs := s.regs.set j (some v)
    imageLog := ⟨c, j == regM, sampleWords (cfgL c) (imgWord s (cfgL c) j), v⟩ :: s.imageLog
    engine := .configured c (if j = 0 then .spectral else p) }

theorem validateWith_of {s : State} {c : ActiveCfg} {p : Phase} {dst : Nat} {j : RegId}
    (he : s.engine = .configured c p) (hj : validateOperand c dst = some j) (d : Draws) :
    validateWith d dst s = finish d c (validated c p j (validateValue d c j s) s) := by
  rw [validateWith, withEngine_of he, hj, withField, validated]

theorem validated_regs (c : ActiveCfg) (p : Phase) (j : RegId) (v : Nat) (s : State) :
    (validated c p j v s).regs[j] = some v := regs_self_of_set (s := s) rfl

/-- Under EXACT a decode that agrees with the record is the value (44_commands.md R189, log 12). -/
theorem validateValue_of_exact {d : Draws} {c : ActiveCfg} {j : RegId} {s : State} {v : Nat}
    (hex : d.exact = true) (hdec : decodeValue d c j s = some v)
    (hlog : logAgrees s c (j == regM) (sampleWords (cfgL c) (imgWord s (cfgL c) j)) v = true) :
    validateValue d c j s = v := by
  simp only [validateValue, hdec, hex, hlog, Bool.and_self, if_true]

/-- A value that agrees with the record is that of every image on record of the same words, kind and
configuration (10_state.md R54). -/
theorem value_of_logAgrees {s : State} {c : ActiveCfg} {full : Bool} {ws : List DWord} {v : Nat}
    (h : logAgrees s c full ws v = true) {r : ImageRecord} (hr : r ∈ s.imageLog) (hcfg : r.cfg = c)
    (hfull : r.full = full) (hws : r.samples = ws) : r.value = v := by
  simpa [hcfg, hfull, hws] using List.all_eq_true.mp h r hr

/-- Settles O19: VALIDATE writes the register's value, the record and the engine, and ends. -/
theorem validateEffect : Obligations.ValidateEffect := by
  intro s c p dst j he hj
  refine ⟨_, rfl, ?_⟩
  rw [validateWith_of he (validateOperand_eq_some hj)]
  set d := Config.draws s.draw
  set v := validateValue d c j s with hvdef
  have hregs : (finish d c (validated c p j v s)).regs[j] = some v := validated_regs c p j v s
  refine ⟨⟨rfl, rfl, rfl, rfl⟩, ⟨v, hregs, validateValue_lt d c j s⟩, fun w hex hdec hlog => ?_, rfl,
    regsKeptBut_of_set (s := s) rfl, by constructor <;> rfl, ⟨rfl, rfl, rfl, rfl⟩, ⟨rfl, rfl, rfl⟩, ⟨rfl, rfl⟩,
    ⟨rfl, rfl, rfl, rfl⟩, finish_bytesKeptOutside d c (validated c p j v s)⟩
  rw [hregs, hvdef, validateValue_of_exact hex hdec hlog]

theorem runEvent_resetInput_imageLog (b : Bool) (s : State) :
    (runEvent (.resetInput b) s).imageLog = s.imageLog := by
  show (setResetInput b s).imageLog = _
  unfold setResetInput
  split
  · rfl
  · split <;> rfl

/-- No write of a register touches the record: a soft reset keeps it, and so does a write of RAW_HI. -/
theorem writeReg_imageLog (r : WinReg) (v : Word) (s : State) : (writeReg r v s).imageLog = s.imageLog := by
  obtain hk | hk | hk := writeReg_cases r v s
  · exact hk.imageLog
  · rw [hk, resetState_imageLog]
  · rw [hk, writeRawHi]
    split <;> rfl

/-- No action of the world touches the record. -/
theorem runEvent_imageLog (e : HostEvent) (s : State) : (runEvent e s).imageLog = s.imageLog := by
  cases e with
  | read addr width =>
    show (busRead addr width s).2.imageLog = _
    obtain hs | ⟨r, hr⟩ := busRead_state addr width s
    · rw [hs]
    · rw [hr, (readReg_coreKept r s).imageLog]
  | write addr width x =>
    show (busWrite addr width x s).2.imageLog = _
    obtain hs | ⟨-, r, v, hw⟩ := busWrite_state addr width x s
    · rw [hs]
    · rw [hw, writeReg_imageLog]
  | resetInput b => exact runEvent_resetInput_imageLog b s
  | quiet => rfl

theorem runInput_imageLog (s : State) : (runInput s).imageLog = s.imageLog := by
  obtain h | ⟨e, es, h⟩ := runInput_cases s <;> rw [h]
  exact runEvent_imageLog e _

/-- No step takes an image off the record (10_state.md R54, log 12). -/
theorem step_imageLog {s t : State} (h : step s = .next t) : s.imageLog ⊆ t.imageLog := by
  obtain ⟨-, -, hstep⟩ | ⟨-, hstep⟩ := step_cases s <;> rw [hstep] at h
  · obtain ⟨u, hrun, hu⟩ := runCommand_completesFrom s
    cases hrun.symm.trans h
    exact hu.imageLog
  · cases h
    rw [runInput_imageLog]
    exact List.Subset.refl _

/-- Settles O20: EXACT binds the value to the record, and no action of the machine takes a record away. -/
theorem restoreGivesRecordedValue : Obligations.RestoreGivesRecordedValue := by
  refine ⟨fun d s c p dst j v r he hj hr hcfg hfull hws hex hdec hlog => ?_, fun s t r hr h => step_imageLog h hr,
    fun s v b p => ⟨writeReg_imageLog _ v s, runEvent_imageLog _ s, configureWith_imageLog p s⟩⟩
  rw [validateWith_of he (validateOperand_eq_some hj), finish_regs, validated_regs,
    validateValue_of_exact hex hdec hlog, value_of_logAgrees hlog hr hcfg hfull hws]

end Sys2Proof.Machine

/-!
PROOF. SET's balanced expansion: each quotient is at most half as large as what it is taken of, so that an i32 is
used up in N ≥ 1024 digits; for b = 2 that holds of no negative value (44_commands.md R192; log 32).
-/

namespace Sys2Proof.Machine

theorem balancedDigits_succ (b n : Nat) (y : Int) : balancedDigits b (n + 1) y =
    (y - balancedQuot y b * b) :: balancedDigits b n (balancedQuot y b) := rfl

theorem balancedDigits_range {b : Nat} (hb : 0 < b) (n : Nat) (y : Int) :
    ∀ d ∈ balancedDigits b n y, -(b : Int) < 2 * d ∧ 2 * d ≤ b := by
  induction n generalizing y with
  | zero => exact fun _ h => absurd h List.not_mem_nil
  | succ n ih =>
    rw [balancedDigits_succ]
    exact List.forall_mem_cons.mpr ⟨balancedQuot_spec y b hb, ih _⟩

/-- The quotient of a value that is not negative is not negative. -/
theorem balancedQuot_nonneg {y : Int} {b : Nat} (hb : 0 < b) (hy : 0 ≤ y) : 0 ≤ balancedQuot y b := by
  obtain ⟨-, hhi⟩ := balancedQuot_spec y b hb
  by_contra hneg
  have hmul : (balancedQuot y b + 1) * b ≤ 0 := mul_nonpos_of_nonpos_of_nonneg (by omega) (by omega)
  linarith

/-- The quotient is at most half as large in magnitude, but for b = 2 below zero, where ceil(−1/2 − 1/2) = −1. -/
theorem balancedQuot_natAbs_le {y : Int} {b : Nat} (hb : 2 ≤ b) (h : 4 ≤ b ∨ 0 ≤ y) :
    2 * (balancedQuot y b).natAbs ≤ y.natAbs := by
  obtain ⟨hlo, hhi⟩ := balancedQuot_spec y b (by omega)
  set q := balancedQuot y b
  obtain hy | hy := Int.lt_or_le y 0
  · have hb4 : 4 ≤ b := by omega
    have hle : y ≤ 2 * q ∧ 2 * q ≤ -y := by
      constructor <;> by_contra hgt <;> nlinarith
    omega
  · have hq : 0 ≤ q := balancedQuot_nonneg (by omega) hy
    have hle : 2 * q ≤ y := by
      by_contra hgt
      nlinarith
    omega

/-- Digits that use the value up sum to it. -/
theorem digitSum_balancedDigits {b : Nat} (hb : 2 ≤ b) {n : Nat} {y : Int} (h : 4 ≤ b ∨ 0 ≤ y)
    (hy : y.natAbs < 2 ^ n) : digitSum b (balancedDigits b n y) = y := by
  induction n generalizing y with
  | zero =>
    obtain rfl : y = 0 := by simpa using hy
    rfl
  | succ n ih =>
    have hhalf := balancedQuot_natAbs_le hb h
    have hq : digitSum b (balancedDigits b n (balancedQuot y b)) = balancedQuot y b :=
      ih (h.imp_right (balancedQuot_nonneg (by omega))) (by rw [pow_succ] at hy; omega)
    rw [balancedDigits_succ, digitSum, hq]
    ring

/-- Settles O53: the range digit by digit, and the sum because 2^31 is used up in N ≥ 1024 halvings. -/
theorem balancedExpansion : Obligations.BalancedExpansion := by
  intro b n a _ hb hn hlo hhi
  refine ⟨balancedDigits_range (by omega) n a, fun h => digitSum_balancedDigits hb h ?_⟩
  calc a.natAbs ≤ 2 ^ 31 := by omega
    _ < 2 ^ n := Nat.pow_lt_pow_right (by decide) (by omega)

end Sys2Proof.Machine

/-!
PROOF. The host's test loop: after the bits above bit k, r_0 holds 2 to the number those bits spell, modulo n
(44_commands.md R193, R201).
-/

namespace Sys2Proof.Machine

theorem exponentBits_length (e k : Nat) : (exponentBits e k).length = k := by
  induction k with
  | zero => rfl
  | succ k ih => rw [exponentBits, List.length_cons, ih]

theorem mem_testLoop {e : Nat} {i : Instr} (h : i ∈ testLoop e) : ∃ dup, i = .squareDup dup := by
  obtain ⟨dup, -, rfl⟩ := List.mem_map.mp h
  exact ⟨dup, rfl⟩

theorem testLoop_length {e : Nat} (he : 0 < e) : (testLoop e).length = Nat.log2 e + 1 := by
  rw [testLoop, List.length_map, exponentBits_length]
  refine le_antisymm (Nat.size_le.mpr Nat.lt_log2_self) (Nat.lt_size.mpr (Nat.log2_self_le (by omega)))

/-- r_0 holds a number congruent to 2^m modulo n in configuration c. -/
def HoldsPower (c : ActiveCfg) (m : Nat) (s : State) : Prop :=
  (∃ p, s.engine = .configured c p) ∧ ∃ v, s.regs[(0 : RegId)] = some v ∧ v ≡ 2 ^ m [MOD cfgMod c]

/-- One command of the loop appends one bit to the exponent, and leaves a residue (44_commands.md R193). -/
theorem holdsPower_squareDup {c : ActiveCfg} {m : Nat} {s : State} (h : HoldsPower c m s) {d : Draws}
    (hex : d.exact = true) (dup : Bool) :
    HoldsPower c (2 * m + dup.toNat) (squareDupWith d dup s) ∧
      ∃ v, (squareDupWith d dup s).regs[(0 : RegId)] = some v ∧ v < cfgMod c := by
  obtain ⟨⟨p, he⟩, v, hv, hmod⟩ := h
  rw [squareDupWith_of he hv]
  set out := squareOut d c s (gainOf dup) (pass1Square (cfgL c) (cfgT c) (imageSamples s (cfgL c) 0))
  have hgiven := finishSquare_imageGiven d c (squareValue d c dup v) out s
  have hgain : gainOf dup = 2 ^ dup.toNat := by cases dup <;> rfl
  have hpow : squareValue d c dup v ≡ 2 ^ (2 * m + dup.toNat) [MOD cfgMod c] :=
    calc squareValue d c dup v
      _ ≡ gainOf dup * v ^ 2 [MOD cfgMod c] := by
        rw [squareValue_of_exact hex]
        exact Nat.mod_modEq _ _
      _ ≡ gainOf dup * (2 ^ m) ^ 2 [MOD cfgMod c] := (hmod.pow 2).mul_left _
      _ = 2 ^ (2 * m + dup.toNat) := by rw [hgain, ← pow_mul, ← pow_add, mul_comm m, add_comm]
  exact ⟨⟨⟨_, hgiven.engine⟩, _, hgiven.value, hpow⟩, _, hgiven.value, squareValue_lt d c dup v⟩

/-- The bits of e from bit k + 1 up, and then bit k, are the bits from bit k up. -/
theorem two_mul_div_add_testBit (e k : Nat) : 2 * (e / 2 ^ (k + 1)) + (e.testBit k).toNat = e / 2 ^ k := by
  rw [Nat.toNat_testBit, pow_succ, ← Nat.div_div_eq_div_mul]
  exact Nat.div_add_mod _ 2

/-- A run of SQUARE_DUPs with these doubling flags, its parameters by the counter of draws. -/
def runSquarings (params : Nat → Draws) (dups : List Bool) (s : State) : State :=
  dups.foldl (fun t dup => squareDupWith (params t.draw) dup t) s

theorem runSquarings_cons (params : Nat → Draws) (dup : Bool) (dups : List Bool) (s : State) :
    runSquarings params (dup :: dups) s = runSquarings params dups (squareDupWith (params s.draw) dup s) := rfl

theorem foldl_runLoopCommand_testLoop (params : Nat → Draws) (e : Nat) (s : State) :
    (testLoop e).foldl (fun t i => runLoopCommand (params t.draw) i t) s =
      runSquarings params (exponentBits e e.size) s := by
  rw [testLoop, List.foldl_map]
  rfl

/-- The commands of the k + 1 low bits of e complete the exponent, and the last of them leaves a residue. -/
theorem runSquarings_exponentBits {params : Nat → Draws} (hex : ∀ k, (params k).exact = true) {c : ActiveCfg}
    (e k : Nat) {s : State} (h : HoldsPower c (e / 2 ^ (k + 1)) s) :
    HoldsPower c e (runSquarings params (exponentBits e (k + 1)) s) ∧
      ∃ v, (runSquarings params (exponentBits e (k + 1)) s).regs[(0 : RegId)] = some v ∧ v < cfgMod c := by
  induction k generalizing s with
  | zero =>
    have hlast := holdsPower_squareDup h (hex s.draw) (e.testBit 0)
    rw [two_mul_div_add_testBit, pow_zero, Nat.div_one] at hlast
    rwa [exponentBits, runSquarings_cons]
  | succ k ih =>
    obtain ⟨hnext, -⟩ := holdsPower_squareDup h (hex s.draw) (e.testBit (k + 1))
    rw [two_mul_div_add_testBit] at hnext
    rw [exponentBits, runSquarings_cons]
    exact ih hnext

/-- Settles O60: r_0 = 1 holds 2^0, each command appends a bit of E, and the last leaves a residue. -/
theorem testLoopComputesPower : Obligations.TestLoopComputesPower := by
  refine ⟨fun params s c p e hex he hr0 hpos => ?_, fun e he => testLoop_length he, fun e i s hi => ?_⟩
  · obtain ⟨k, hk⟩ := Nat.exists_eq_add_one.mpr (Nat.size_pos.mpr hpos)
    have hstart : HoldsPower c (e / 2 ^ (k + 1)) s := by
      rw [← hk, Nat.div_eq_of_lt (Nat.lt_size_self e)]
      exact ⟨⟨p, he⟩, 1, hr0, Nat.ModEq.rfl⟩
    obtain ⟨⟨-, v, hv, hmod⟩, w, hw, hlt⟩ := runSquarings_exponentBits hex e k hstart
    obtain rfl : v = w := Option.some.inj (hv.symm.trans hw)
    rw [foldl_runLoopCommand_testLoop, hk, hv, ← Nat.mod_eq_of_lt hlt, hmod]
  · obtain ⟨dup, rfl⟩ := mem_testLoop hi
    exact ⟨⟨dup, rfl⟩, rfl⟩

end Sys2Proof.Machine

/-!
SUPPORT. How the checks of a command end it, said once for every command: the first that fails completes the
command with its code and writes nothing else, and a command that passes them all ends with OK
(60_exceptions.md R204 to R206).
-/

namespace Sys2Proof.Machine

/-! ### How the checks end a command -/

/-- The first check that fails ends the command of state s with its code and writes nothing else; a command
none of whose checks fails ends with OK. -/
inductive DecidedBy (s : State) : Option ErrCode → State → Prop
  | failed (code : ErrCode) : DecidedBy s (some code) (complete code s)
  | passed {t : State} (h : EndedWith .ok s t) : DecidedBy s none t

theorem complete_endedWith (code : ErrCode) (s : State) : EndedWith code s (complete code s) :=
  ⟨rfl, rfl, rfl, rfl⟩

section
variable {s : State} {e : Option ErrCode}

theorem DecidedBy.endedWith {t : State} (h : DecidedBy s e t) : EndedWith (e.getD .ok) s t := by
  cases h with
  | failed code => exact complete_endedWith code s
  | passed hok => exact hok

theorem DecidedBy.of_failed {code : ErrCode} (h : e = some code) : DecidedBy s e (complete code s) :=
  h ▸ .failed code

theorem DecidedBy.of_passed {t : State} (h : e = none) (ht : EndedWith .ok s t) : DecidedBy s e t :=
  h ▸ .passed ht

theorem DecidedBy.withEngine {k : ActiveCfg → Phase → State}
    (hstate : s.engine = .unconfigured → e = some .state)
    (h : ∀ c p, s.engine = .configured c p → DecidedBy s e (k c p)) : DecidedBy s e (withEngine s k) := by
  obtain ⟨he, hk⟩ | ⟨c, p, he, hk⟩ := withEngine_cases s k <;> rw [hk]
  · exact .of_failed (hstate he)
  · exact h c p he

theorem DecidedBy.withField {r : Option RegId} {k : RegId → State} (hreg : r = none → e = some .reg)
    (h : ∀ j, r = some j → DecidedBy s e (k j)) : DecidedBy s e (withField s r k) := by
  obtain ⟨hr, hk⟩ | ⟨j, hr, hk⟩ := withField_cases s r k <;> rw [hk]
  · exact .of_failed (hreg hr)
  · exact h j hr

theorem DecidedBy.withValue {j : RegId} {k : Nat → State} (hunwritten : s.regs[j] = none → e = some .unwritten)
    (h : ∀ v, s.regs[j] = some v → DecidedBy s e (k v)) : DecidedBy s e (withValue s j k) := by
  obtain ⟨hv, hk⟩ | ⟨v, hv, hk⟩ := withValue_cases s j k <;> rw [hk]
  · exact .of_failed (hunwritten hv)
  · exact h v hv

end

/-! ### The UNWRITTEN check by registers -/

/-- The bit of VALID of a register tells what its UNWRITTEN check finds (10_state.md R43). -/
theorem holdsNothing_val (s : State) (j : RegId) : holdsNothing s j.val = (s.regs[j]).isNone := by
  simp [holdsNothing]

theorem holdsNothing_of_none {s : State} {j : RegId} (h : s.regs[j] = none) : holdsNothing s j.val = true := by
  rw [holdsNothing_val, h, Option.isNone_none]

theorem holdsNothing_of_some {s : State} {j : RegId} {v : Nat} (h : s.regs[j] = some v) :
    ¬holdsNothing s j.val = true := by
  rw [holdsNothing_val, h, Option.isNone_some]
  exact Bool.false_ne_true

/-! ### The REG check by operands -/

/-- The registers that a command's register fields name, `none` for a field that names none (30_encoding.md R97). -/
def operandsOf (c : ActiveCfg) : Instr → List (Option RegId)
  | .copy dst src => [regOperand c dst, regOperand c src]
  | .initMult src => [regOperand c src]
  | .validate dst => [validateOperand c dst]
  | _ => []

/-- The active configuration has at most 30 registers beside r_0 (00_scope.md R13). -/
def RegsBounded (s : State) : Prop := ∀ c p, s.engine = .configured c p → cfgR c ≤ 30

theorem isNone_regOperand {c : ActiveCfg} (hc : cfgR c ≤ 30) (j : Nat) :
    (regOperand c j).isNone = decide (cfgR c < j) := by
  by_cases hj : j ≤ cfgR c
  · simp [regOperand, hj, hj.trans hc]
  · simp [regOperand, hj, Nat.lt_of_not_le hj]

theorem isNone_validateOperand {c : ActiveCfg} (hc : cfgR c ≤ 30) (j : Nat) :
    (validateOperand c j).isNone = (decide (cfgR c < j) && j != 0xFF) := by
  by_cases hj : j = 0xFF
  · simp [validateOperand, hj]
  · simp [validateOperand, hj, isNone_regOperand hc]

/-- With NUM_REGS at most 30 a field that names no register is above NUM_REGS, and not VALIDATE's 0xFF. -/
theorem none_mem_operandsOf {c : ActiveCfg} (hc : cfgR c ≤ 30) (i : Instr) :
    none ∈ operandsOf c i ↔ fieldRefused c i = true := by
  have hnone (r : Option RegId) : none = r ↔ r.isNone = true := by rw [Option.isNone_iff_eq_none, eq_comm]
  cases i with
  | copy dst src => simp [operandsOf, fieldRefused, hnone, isNone_regOperand hc]
  | initMult src => simp [operandsOf, fieldRefused, hnone, isNone_regOperand hc]
  | validate dst => simp [operandsOf, fieldRefused, hnone, isNone_validateOperand hc]
  | _ => simp [operandsOf, fieldRefused]

/-! ### The checks of a residue command by its operands -/

/-- The checks of a residue command, REG being that a field names no register: STATE, then REG, then UNWRITTEN
(60_exceptions.md R204). -/
def operandError (i : Instr) (s : State) : Option ErrCode :=
  match s.engine with
  | .unconfigured => some .state
  | .configured c _ =>
    if none ∈ operandsOf c i then some .reg
    else if ∃ n ∈ readsOf i, holdsNothing s n = true then some .unwritten
    else none

theorem operandError_eq_residueError {s : State} (hregs : RegsBounded s) (i : Instr) :
    operandError i s = residueError i s := by
  cases he : s.engine with
  | unconfigured => simp only [operandError, residueError, he]
  | configured c p =>
    simp only [operandError, residueError, he, none_mem_operandsOf (hregs c p he), List.any_eq_true]

section
variable {i : Instr} {s : State} {c : ActiveCfg} {p : Phase}

theorem operandError_unconfigured (he : s.engine = .unconfigured) : operandError i s = some .state := by
  simp only [operandError, he]

theorem operandError_refused (he : s.engine = .configured c p) (hc : none ∈ operandsOf c i) :
    operandError i s = some .reg := by
  simp only [operandError, he, if_pos hc]

theorem operandError_unwritten (he : s.engine = .configured c p) (hc : none ∉ operandsOf c i) {j : RegId}
    (hj : j.val ∈ readsOf i) (hv : s.regs[j] = none) : operandError i s = some .unwritten := by
  simp only [operandError, he, if_neg hc]
  exact if_pos ⟨_, hj, holdsNothing_of_none hv⟩

theorem operandError_passed (he : s.engine = .configured c p) (hc : none ∉ operandsOf c i)
    (hreads : ∀ n ∈ readsOf i, ¬holdsNothing s n = true) : operandError i s = none := by
  simp only [operandError, he, if_neg hc]
  exact if_neg fun ⟨n, hn, hnone⟩ => hreads n hn hnone

end

/-- A command that reads one register, after its STATE and REG checks. -/
theorem withValue_decided {i : Instr} {s : State} {c : ActiveCfg} {p : Phase} {j : RegId} {k : Nat → State}
    (he : s.engine = .configured c p) (hops : none ∉ operandsOf c i) (hreads : readsOf i = [j.val])
    (hk : ∀ v, EndedWith .ok s (k v)) : DecidedBy s (operandError i s) (withValue s j k) :=
  .withValue (operandError_unwritten he hops (hreads ▸ List.mem_singleton_self _)) fun v hv =>
    .of_passed (operandError_passed he hops (hreads ▸ List.forall_mem_singleton.mpr (holdsNothing_of_some hv)))
      (hk v)

/-- A command that reads the register of its SRC field, after its STATE check. -/
theorem withSource_decided {i : Instr} {s : State} {c : ActiveCfg} {p : Phase} {src : Nat}
    {k : RegId → Nat → State} (he : s.engine = .configured c p)
    (hops : none ∈ operandsOf c i ↔ regOperand c src = none) (hreads : readsOf i = [src])
    (hk : ∀ r v, EndedWith .ok s (k r v)) :
    DecidedBy s (operandError i s) (withField s (regOperand c src) fun r => withValue s r (k r)) :=
  .withField (fun hr => operandError_refused he (hops.mpr hr)) fun r hr => by
    obtain ⟨rfl, -, -⟩ := regOperand_some hr
    exact withValue_decided he (by simp [hops, hr]) hreads (hk r)

/-! ### Every command is decided by its checks -/

section
variable (d : Draws) (s : State)

theorem setWith_decided : DecidedBy s (operandError .set s) (setWith d s) :=
  .withEngine operandError_unconfigured fun _ _ he =>
    .of_passed (operandError_passed he List.not_mem_nil (List.forall_mem_nil _)) ⟨rfl, rfl, rfl, rfl⟩

theorem squareDupWith_decided (dup : Bool) : DecidedBy s (operandError (.squareDup dup) s) (squareDupWith d dup s) :=
  .withEngine operandError_unconfigured fun _ _ he =>
    withValue_decided he List.not_mem_nil rfl fun _ => ⟨rfl, rfl, rfl, rfl⟩

theorem mulWith_decided : DecidedBy s (operandError .mul s) (mulWith d s) :=
  .withEngine operandError_unconfigured fun _ _ he =>
    .withValue (operandError_unwritten he List.not_mem_nil List.mem_cons_self) fun _ hv =>
    .withValue (operandError_unwritten he List.not_mem_nil (List.mem_cons_of_mem _ List.mem_cons_self)) fun _ hu =>
      .of_passed (operandError_passed he List.not_mem_nil (List.forall_mem_cons.mpr
        ⟨holdsNothing_of_some hv, List.forall_mem_singleton.mpr (holdsNothing_of_some hu)⟩))
        ⟨rfl, rfl, rfl, rfl⟩

theorem getIntWith_decided : DecidedBy s (operandError .getInt s) (getIntWith d s) :=
  .withEngine operandError_unconfigured fun _ _ he =>
    withValue_decided he List.not_mem_nil rfl fun _ => ⟨rfl, rfl, rfl, rfl⟩

theorem isOneWith_decided : DecidedBy s (operandError .isOne s) (isOneWith d s) :=
  .withEngine operandError_unconfigured fun _ _ he =>
    withValue_decided he List.not_mem_nil rfl fun _ => ⟨rfl, rfl, rfl, rfl⟩

theorem copyWith_decided (dst src : Nat) : DecidedBy s (operandError (.copy dst src) s) (copyWith d dst src s) :=
  .withEngine operandError_unconfigured fun _ _ he =>
    .withField (fun hj => operandError_refused he (by simp [operandsOf, hj])) fun _ hj =>
      withSource_decided he (by simp [operandsOf, hj, eq_comm]) rfl fun _ _ => ⟨rfl, rfl, rfl, rfl⟩

theorem initMultWith_decided (src : Nat) : DecidedBy s (operandError (.initMult src) s) (initMultWith d src s) :=
  .withEngine operandError_unconfigured fun _ _ he =>
    withSource_decided he (by simp [operandsOf, eq_comm]) rfl fun _ _ => ⟨rfl, rfl, rfl, rfl⟩

theorem validateWith_decided (dst : Nat) : DecidedBy s (operandError (.validate dst) s) (validateWith d dst s) :=
  .withEngine operandError_unconfigured fun _ _ he =>
    .withField (fun hj => operandError_refused he (by simp [operandsOf, hj])) fun _ hj =>
      .of_passed (operandError_passed he (by simp [operandsOf, hj]) (List.forall_mem_nil _)) ⟨rfl, rfl, rfl, rfl⟩

theorem configureWith_decided : DecidedBy s (commandError .configure s) (configureWith Config.sizes s) := by
  by_cases h : configAccepted Config.sizes (latchedCfg s) = true
  · rw [configureWith_accepted h]
    exact .of_passed (if_pos h) ⟨rfl, rfl, rfl, rfl⟩
  · rw [configureWith_refused h]
    exact .of_failed (if_neg h)

end

/-- Every command is decided by some first check that fails, or by none; where NUM_REGS is at most 30, by the checks
of 60_exceptions.md R204. -/
theorem exec_decided (i : Instr) (s : State) :
    ∃ e t, exec i s = .next t ∧ DecidedBy s e t ∧ (RegsBounded s → e = commandError i s) := by
  cases i with
  | nop => exact ⟨none, _, rfl, .passed (complete_endedWith .ok s), fun _ => rfl⟩
  | configure => exact ⟨_, _, rfl, configureWith_decided s, fun _ => rfl⟩
  | set => exact ⟨_, _, rfl, setWith_decided _ s, (operandError_eq_residueError · _)⟩
  | squareDup dup => exact ⟨_, _, rfl, squareDupWith_decided _ s dup, (operandError_eq_residueError · _)⟩
  | copy dst src => exact ⟨_, _, rfl, copyWith_decided _ s dst src, (operandError_eq_residueError · _)⟩
  | initMult src => exact ⟨_, _, rfl, initMultWith_decided _ s src, (operandError_eq_residueError · _)⟩
  | mul => exact ⟨_, _, rfl, mulWith_decided _ s, (operandError_eq_residueError · _)⟩
  | getInt => exact ⟨_, _, rfl, getIntWith_decided _ s, (operandError_eq_residueError · _)⟩
  | isOne => exact ⟨_, _, rfl, isOneWith_decided _ s, (operandError_eq_residueError · _)⟩
  | validate dst => exact ⟨_, _, rfl, validateWith_decided _ s dst, (operandError_eq_residueError · _)⟩

/-- A completion step is decided by the checks of the word in CMD_LAT, the first being that it is legal. -/
theorem runCommand_decided (s : State) :
    ∃ e t, runCommand s = .next t ∧ DecidedBy s e t ∧ (RegsBounded s → e = firstError s) := by
  obtain ⟨i, hdec, hrun⟩ | ⟨r, hdec, hrun⟩ := runCommand_cases s <;> simp only [hrun, firstError, hdec]
  · exact exec_decided i s
  · exact ⟨some .illegal, _, rfl, .failed .illegal, fun _ => rfl⟩

end Sys2Proof.Machine

/-!
SUPPORT. The binary64 comparisons of the error metric by pattern: a value in [+0, 0.5] orders by its number
(60_exceptions.md R210, R211; 42_passes.md R176).
-/

namespace Sys2Proof.Machine

/-! ### Zero, NaN and sign -/

theorem f64Mag_of_msb_false {x : F64} (h : x.msb = false) : f64Mag x = x.toNat :=
  Nat.mod_eq_of_lt (by have := BitVec.msb_eq_false_iff_two_mul_lt.mp h; omega)

theorem f64Key_of_msb_false {x : F64} (h : x.msb = false) : f64Key x = x.toNat := by
  rw [f64Key, if_neg (by simp [h]), f64Mag_of_msb_false h]

theorem f64Key_of_isZero {x : F64} (h : f64IsZero x = true) : f64Key x = 0 := by
  rw [f64Key, beq_iff_eq.mp h, Int.natCast_zero, Int.neg_zero, ite_self]

theorem f64Key_neg_of_msb {x : F64} (hs : x.msb = true) (hz : f64IsZero x = false) : f64Key x < 0 := by
  have hpos : f64Mag x ≠ 0 := beq_eq_false_iff_ne.mp hz
  rw [f64Key, if_pos hs]
  omega

theorem f64IsNaN_of_isZero {x : F64} (h : f64IsZero x = true) : f64IsNaN x = false := by
  rw [f64IsNaN, beq_iff_eq.mp h]
  rfl

/-! ### A value in [+0, 0.5] -/

theorem toNat_le_of_inRange {err : F64} (h : err.toNat < errPatterns) : err.toNat ≤ 0x3FE0000000000000 :=
  Nat.le_of_lt_succ h

theorem msb_of_inRange {err : F64} (h : err.toNat < errPatterns) : err.msb = false :=
  BitVec.msb_eq_false_iff_two_mul_lt.mpr (by have := toNat_le_of_inRange h; omega)

theorem f64Key_of_inRange {err : F64} (h : err.toNat < errPatterns) : f64Key err = err.toNat :=
  f64Key_of_msb_false (msb_of_inRange h)

theorem f64IsNaN_of_inRange {err : F64} (h : err.toNat < errPatterns) : f64IsNaN err = false := by
  have := toNat_le_of_inRange h
  rw [f64IsNaN, f64Mag_of_msb_false (msb_of_inRange h), infMag]
  exact decide_eq_false (by omega)

/-- PWARN by value: a threshold that is no NaN is compared with ERR's number. -/
theorem pwarnOf_of_inRange {err : F64} (h : err.toNat < errPatterns) (thresh : F64) :
    pwarnOf err thresh = (!f64IsNaN thresh && decide (f64Key thresh < err.toNat)) := by
  rw [pwarnOf, f64Lt, f64IsNaN_of_inRange h, f64Key_of_inRange h, Bool.not_false, Bool.and_true]

/-- UNREC by value: 0.5 is the largest value ERR may have. -/
theorem unrecOf_iff {err : F64} (h : err.toNat < errPatterns) : unrecOf err = true ↔ err = f64Half := by
  have hhalf : f64Half.toNat = 0x3FE0000000000000 := rfl
  have hle := toNat_le_of_inRange h
  rw [unrecOf, f64Le, f64IsNaN_of_inRange h, f64IsNaN_of_inRange f64Half_inRange, f64Key_of_inRange h,
    f64Key_of_inRange f64Half_inRange, Bool.not_false, Bool.true_and, Bool.true_and, decide_eq_true_iff,
    Int.ofNat_le, ← BitVec.toNat_inj]
  omega

end Sys2Proof.Machine

/-!
PROOF. The codes and the precision of errors, the precision flags, the dropped command and the interrupt
(60_exceptions.md R204 to R211; 10_state.md R32, R40).
-/

namespace Sys2Proof.Machine

/-! ### What lowers IRQ -/

theorem irq_of_done_false {s : State} (h : s.done = false) : irq s = false := by
  rw [irq, h, Bool.and_false]

theorem irq_resetState (s : State) : irq (resetState s) = false := rfl

theorem writeReg_ctrl_softReset {s : State} {v : Word} (hv : v.getLsbD 1 = true) :
    writeReg .ctrl v s = resetState s := if_pos hv

/-! ### The statements -/

/-- Settles O21: the completion step is decided by the command's checks. -/
theorem checksDecideCode : Obligations.ChecksDecideCode := by
  intro s hregs hb hr
  obtain ⟨e, t, hrun, ht, he⟩ := runCommand_decided s
  have hstep : step s = .next t := (step_due hb hr).trans hrun
  have hended := he hregs ▸ ht.endedWith
  exact ⟨fun code hcode => ⟨t, hstep, by simpa only [hcode, Option.getD_some] using hended⟩,
    fun hnone => ⟨t, hstep, by simpa only [hnone, Option.getD_none] using hended⟩⟩

/-- Settles O22: a command that does not end with OK failed a check, which writes its code and nothing else. -/
theorem errorsArePrecise : Obligations.ErrorsArePrecise := by
  intro s t hb hr hstep hcode
  obtain ⟨e, u, hrun, hu, -⟩ := runCommand_decided s
  obtain rfl : u = t := Host.Outcome.next.inj (hrun.symm.trans ((step_due hb hr).symm.trans hstep))
  cases hu with
  | failed code => rfl
  | passed hok => exact absurd hok.errCode hcode

/-- Settles O23: ERR orders by its number, a NaN below and above nothing, and a negative threshold below all. -/
theorem precisionFlagRules : Obligations.PrecisionFlagRules := by
  intro err thresh herr
  have hpwarn := pwarnOf_of_inRange herr thresh
  refine ⟨fun hnan => ?_, fun hnan hneg hzero => ?_, fun hpos hnan => ?_, fun hzero => ?_, unrecOf_iff herr,
    fun hnan => ?_⟩
  · rw [hpwarn, hnan]
    rfl
  · have := f64Key_neg_of_msb hneg hzero
    rw [hpwarn, hnan]
    exact decide_eq_true (by omega)
  · simp [hpwarn, hnan, f64Key_of_msb_false hpos]
  · simp [hpwarn, f64IsNaN_of_isZero hzero, f64Key_of_isZero hzero]
  · have hlt : f64Lt thresh err = false := by simpa [hnan, pwarnOf] using hpwarn
    rw [maxErrOf, hlt, if_neg Bool.false_ne_true]

/-- Settles O33: CMD while busy, and STATUS by its two write-one-to-clear bits. -/
theorem commandDropped : Obligations.CommandDropped := by
  refine ⟨fun s w hb => writeReg_cmd_busy hb w, fun s w hw => ?_, fun s w => ?_⟩
  · simp [writeReg, writeStatus, hw]
  · simp [writeReg, writeStatus, Bool.and_comm]

/-- Settles O38: an event lowers IRQ by DONE, by IE, or by a reset, which clears both. -/
theorem interruptLevel : Obligations.InterruptLevel := by
  intro s
  refine ⟨rfl, fun _ => rfl, fun code hie => ?_, fun v hsrst hie hdone => ?_, fun v hclear => ?_, fun v hie => ?_,
    fun w hb => ?_, fun v hsrst => ?_, fun b hreset => ?_⟩
  · rw [irq, complete_ie, complete_done, hie, Bool.and_true]
  · rw [writeReg_ctrl hsrst, irq, hie, hdone, Bool.and_true]
  · exact irq_of_done_false (by simp [writeReg, writeStatus, hclear])
  · cases hsrst : v.getLsbD 1 with
    | false => rw [writeReg_ctrl hsrst, irq, hie, Bool.false_and]
    | true => rw [writeReg_ctrl_softReset hsrst, irq_resetState]
  · rw [writeReg_cmd_idle hb, irq_of_done_false (acceptCommand_done w s)]
  · rw [writeReg_ctrl_softReset hsrst, irq_resetState]
  · simp only [runEvent, setResetInput]
    split
    · rfl
    · next hb => rw [if_pos (hreset.resolve_right hb), irq_resetState]

end Sys2Proof.Machine

/-!
PROOF. The reset state and what the host reads in it, and a raw word written and read back
(70_reset_and_hazards.md R219 to R221, R226; 10_state.md R28, R47 to R49).
-/

namespace Sys2Proof.Machine

/-! ### A coherent raw word (70_reset_and_hazards.md R226) -/

theorem rawTarget_congr {s t : State} (he : t.engine = s.engine) (hsel : t.rawSel = s.rawSel)
    (hb : t.busy = s.busy) (hi : t.rawIdx = s.rawIdx) : rawTarget t = rawTarget s := by
  simp only [rawTarget, he, hsel, hb, hi]

theorem readReg_rawLo {s : State} {l : Nat} {j : RegId} {w : Nat} (h : rawTarget s = some (l, j, w)) :
    readReg .rawLo s = (loHalf (imgWord s l j w), { s with rawLatch := imgWord s l j w }) := by
  simp only [readReg, readRawLo, h]

theorem readReg_rawHi {s : State} {l : Nat} {j : RegId} {w : Nat} (h : rawTarget s = some (l, j, w)) :
    readReg .rawHi s = (hiHalf s.rawLatch, { s with rawIdx := s.rawIdx + 1 }) := by
  simp only [readReg, readRawHi, h]

/-- A read of RAW_LO and then of RAW_HI gives the two halves of the word reached: RAW_LATCH holds it between
the two. -/
theorem read_rawWord {s : State} {l : Nat} {j : RegId} {w : Nat} (h : rawTarget s = some (l, j, w)) :
    (readReg .rawLo s).1 = loHalf (imgWord s l j w) ∧
      (readReg .rawHi (readReg .rawLo s).2).1 = hiHalf (imgWord s l j w) := by
  have hlatched : rawTarget { s with rawLatch := imgWord s l j w } = some (l, j, w) :=
    (rawTarget_congr rfl rfl rfl rfl).trans h
  rw [readReg_rawLo h, readReg_rawHi hlatched]
  exact ⟨rfl, rfl⟩

/-- The host writes a raw word through RAW_LO and RAW_HI, and RAW_IDX back to the index it was written at. -/
def writeRawWord (lo hi : Word) (s : State) : State :=
  writeReg .rawIdx (s.rawIdx.setWidth 32) (writeReg .rawHi hi (writeReg .rawLo lo s))

theorem writeRawWord_eq (lo hi : Word) (s : State) : writeRawWord lo hi s =
    { writeRawHi hi { s with rawHold := lo } with rawIdx := s.rawIdx } := by
  have hidx : (s.rawIdx.setWidth 32).setWidth 25 = s.rawIdx := BitVec.setWidth_setWidth_of_le _ (by decide)
  simp only [writeRawWord, writeReg, hidx]

/-- The raw window reaches the word that was written, with RAW_HOLD's half below the one given last. -/
theorem writeRawWord_reached {s : State} {l : Nat} {j : RegId} {w : Nat} (h : rawTarget s = some (l, j, w))
    (lo hi : Word) : rawTarget (writeRawWord lo hi s) = some (l, j, w) ∧
      imgWord (writeRawWord lo hi s) l j w = joinHalves hi lo := by
  have hheld : rawTarget { s with rawHold := lo } = some (l, j, w) :=
    (rawTarget_congr rfl rfl rfl rfl).trans h
  rw [writeRawWord_eq]
  refine ⟨?_, imgWord_writeRawHi hheld hi⟩
  rw [writeRawHi_some hheld, ← h]
  exact rawTarget_congr rfl rfl rfl rfl

/-- Settles O31: the word written is the one the window reaches again, and its halves are the two given. -/
theorem rawWordRoundTrip : Obligations.RawWordRoundTrip := by
  rintro s t c p j lo hi he hsel hb hidx rfl
  obtain ⟨hreached, hword⟩ := writeRawWord_reached (rawTarget_eq_some he (rawSelected_eq_some hsel) hb hidx) lo hi
  obtain ⟨hlo, hhi⟩ := read_rawWord hreached
  rw [hword] at hlo hhi
  exact ⟨hlo.trans (loHalf_joinHalves hi lo), hhi.trans (hiHalf_joinHalves hi lo)⟩

/-! ### The two resets -/

theorem resetState_atReset (s : State) : AtReset (resetState s) := rfl

theorem setResetInput_asserted (s : State) : setResetInput true s = { resetState s with resetIn := true } := rfl

theorem setResetInput_released {s : State} (h : s.resetIn = true) : setResetInput false s = resetState s := by
  simp only [setResetInput, h, Bool.false_eq_true, if_false, if_true]

/-- While the reset input is asserted an access in the window gets no answer (70_reset_and_hazards.md R219). -/
theorem bus_held {s : State} (hr : s.resetIn = true) {off : Nat} (hoff : off < 256) (width : AccessWidth)
    (v : DWord) : busRead (Config.base + off) width s = (.noAnswer, s) ∧
      busWrite (Config.base + off) width v s = (.noAnswer, s) := by
  simp only [busRead, busWrite, windowOffset_inside hoff, hr, if_true, and_self]

/-- Settles O34: both resets take the state of `resetState`, and the level of the reset input gates the bus. -/
theorem resetsGiveResetState : Obligations.ResetsGiveResetState := by
  refine ⟨fun s v hsrst => ?_, fun s => ⟨?_, rfl⟩, fun s hr => ?_, fun s off width v hr hoff =>
    bus_held hr hoff width v⟩
  · rw [writeReg_ctrl_softReset hsrst]
    exact resetState_atReset s
  · rw [runEvent, setResetInput_asserted]
    exact resetState_atReset s
  · rw [runEvent, setResetInput_released hr]
    exact ⟨resetState_atReset s, rfl⟩

/-! ### The state right after reset -/

theorem reset_regs (j : RegId) : State.reset.regs[j] = none := getElem_replicate_reg j

theorem statusWord_reset : statusWord State.reset = 0 := rfl

theorem validWord_reset : validWord State.reset = 0 := by
  obtain ⟨-, -, -, -, hreset, -⟩ := validBits State.reset
  exact hreset

/-- Settles O35: each register reads its own field, and STATUS and VALID are words of zero fields. -/
theorem registersAfterReset : Obligations.RegistersAfterReset := by
  refine ⟨fun r hid hcaps hlo hhi => ?_, rfl, rfl, rfl, rfl, reset_regs⟩
  cases r with
  | id => exact absurd rfl hid
  | caps => exact absurd rfl hcaps
  | threshLo => exact absurd rfl hlo
  | threshHi => exact absurd rfl hhi
  | status => exact statusWord_reset
  | valid => exact validWord_reset
  | _ => rfl

/-- The reset state is what a reset makes of itself, but for the model's counter of draws. -/
theorem reset_coreKept : CoreKept (resetState State.reset) State.reset :=
  ⟨rfl, rfl, rfl, rfl, rfl, rfl, rfl, rfl, rfl⟩

theorem reset_statusOk : StatusOk State.reset :=
  have st := resetState_statusOk State.reset
  ⟨st.cfgSize, st.cfgLatSize, st.busyDone, st.errRange, st.heldIdle⟩

theorem reset_inv : Inv State.reset := (resetState_inv State.reset).of_coreKept reset_coreKept reset_statusOk

/-- Settles O44: the invariant holds after every reset, and no register holds a value that needs a record. -/
theorem resetMeetsInvariant : Obligations.ResetMeetsInvariant := ⟨reset_inv, recorded_of_no_values reset_regs⟩

end Sys2Proof.Machine
